-- ==== Sys2Proof/Word.lean ====
section
/-!
DEFINITION. The widths of the block's values (spec/00_scope.md R7, R8) and their plainest arithmetic.
-/

namespace Sys2Proof

/-- A u8: commands, characters, line, cell, count and slot operands (R7). -/
abbrev Byte := BitVec 8

/-- A u4: half a byte, the unit the interface carries (R11). -/
abbrev Nibble := BitVec 4

/-- A u16: a host memory reference (R94). -/
abbrev Word16 := BitVec 16

/-- An s32, a u32 or the bits of a binary32 operand (R7). -/
abbrev Word32 := BitVec 32

/-- The 9-bit word `rs ∥ b` of one transaction (spec/30_encoding.md R95). -/
abbrev WireWord := BitVec 9

/-- The level of a line: low is `false` (0), high is `true` (1) (spec/10_state.md R20). -/
abbrev Level := Bool

end Sys2Proof
end

