-- ==== Sys2Proof/Config.lean ====
section
/-!
DEFINITION. What is fixed for one machine: the six logical lines and the parameters of
spec/00_scope.md R6, those whose value the source fixes and those it leaves open alike: "The model
takes the parameters below as arguments". A `Config` is plain data that State carries and no step
changes, so a statement about every state is a statement for every choice of the parameters. Their
values are in Machine/Params.lean.
-/

namespace Sys2Proof

/-- LINES = {RS, E, D4, D5, D6, D7} (spec/10_state.md R20). -/
inductive Line where
  | rs | e | d4 | d5 | d6 | d7
deriving DecidableEq, Repr

/-- One value for each of the six logical lines. -/
structure Lines (α : Type) where
  rs : α
  e : α
  d4 : α
  d5 : α
  d6 : α
  d7 : α
deriving DecidableEq, Repr

/-- The port names A, B, C, D that a port field encodes (spec/10_state.md R23). -/
inductive Port where
  | a | b | c | d
deriving DecidableEq, Repr

/-- One entry of PINMAP: a port (2 bits) and a pin 0..7 (3 bits) (spec/10_state.md R23). -/
structure Pin where
  port : Port
  pin : BitVec 3
deriving DecidableEq, Repr

/-- PINMAP: a (port, pin) pair for each logical line (spec/10_state.md R23). -/
abbrev PinMap := Lines Pin

/-- A pin's direction at the GPIO backend: 0 = input, 1 = output (spec/10_state.md R20). -/
inductive PinDir where
  | input | output
deriving DecidableEq, Repr

/-- The parameters (spec/00_scope.md R6; spec/93_implementation_defined.md). -/
structure Config where
  /-- `PINMAP` (R23). -/
  pinmap : PinMap
  /-- `PORTS`: the ports there are (R23). -/
  ports : List Port
  /-- `PINS_PER_PORT` (R23). -/
  pinsPerPort : Nat
  /-- `DISPLAY_LINES`: lines are numbered from 1 to it. -/
  displayLines : Nat
  /-- `DISPLAY_COLS`, read only by the view of what the display shows (R68, D26). -/
  displayCols : Nat
  /-- `LINE_BASE`, the base of line 1 first (spec/42_addressing.md R159). -/
  lineBases : List Byte
  /-- `CGRAM_SLOTS`, each of 8 bytes: slots are numbered from 0 (spec/42_addressing.md R164). -/
  cgramSlots : Nat
  /-- `T_PULSE_MS`: the E high time (spec/40_transport.md R122). -/
  tPulseMs : Nat
  /-- `T_POWER_MS`: INIT step 2 (spec/41_init.md R142). -/
  tPowerMs : Nat
  /-- `T_FSET_US`: after INIT's function set (R144). -/
  tFsetUs : Nat
  /-- `T_DCTL_US`: after INIT's display control (R145). -/
  tDctlUs : Nat
  /-- `T_CLEAR_MS`: after INIT's clear (R146). -/
  tClearMs : Nat
  /-- `T_CGSET_US`: after CREATE_CHAR's CGRAM address (spec/42_addressing.md R164). -/
  tCgsetUs : Nat
  /-- `T_CGBYTE_US`: after each bitmap byte (R164). -/
  tCgbyteUs : Nat
  /-- `T_CGRESTORE_US`: after CREATE_CHAR's restore command (R164). -/
  tCgrestoreUs : Nat
  /-- `CMD_FUNCTION_SET` (D10): the byte INIT sends at step 4. -/
  cmdFunctionSet : Byte
  /-- `CMD_DISPLAY_CTRL` (D10): the byte INIT sends at step 5. -/
  cmdDisplayCtrl : Byte
  /-- `CMD_CLEAR` (D10): the byte INIT sends at step 6. -/
  cmdClear : Byte
  /-- `CMD_ENTRY_MODE` (D10): the byte INIT sends at step 7. -/
  cmdEntryMode : Byte
  /-- `INIT_NIBBLE`: what INIT step 3 sends (R143) and the receiver takes in Detect8 mode (R62). -/
  initNibble : Nibble
  /-- `GPIO_RESET_DIR` (D15). -/
  gpioResetDir : PinDir
  /-- `GPIO_RESET_LEVEL` (D15). -/
  gpioResetLevel : Level
  /-- `HOST_MEM_SIZE` (D25). -/
  hostMemSize : Nat
  /-- `EXEC_TIME.clear`, in µs (D28). -/
  execClearUs : Nat
  /-- `EXEC_TIME.other`, in µs (D28). -/
  execOtherUs : Nat
  /-- `EXEC_TIME.data`, in µs (D28). -/
  execDataUs : Nat
  /-- `POWER_UP_US` (D28). -/
  powerUpUs : Nat
deriving DecidableEq, Repr

end Sys2Proof
end

