-- ==== Sys2Proof/Syntax.lean ====
section
/-!
DEFINITION. The instructions: one constructor for every row of spec/opcode_table.json. The fifteen
requests (spec/30_encoding.md R91) are what the block serves, the five RESERVED rows are the request
op codes that select no operation (R93), and the WIRE rows are what the receiver executes when a byte
or the lone nibble of the mode detection reaches it (spec/20_memory.md R62, R64, R65).
-/

namespace Sys2Proof

/-- The eight bytes of a glyph, `row0` first (spec/20_memory.md R52; spec/30_encoding.md R94). -/
structure Bitmap where
  row0 : Byte
  row1 : Byte
  row2 : Byte
  row3 : Byte
  row4 : Byte
  row5 : Byte
  row6 : Byte
  row7 : Byte
deriving DecidableEq, Repr

inductive Instr where
  /-- op 0x01, the Initialization Sequencer (R140). -/
  | init
  /-- op 0x02, `sendCommand(byte)` (R124). -/
  | sendCmd (b : Byte)
  /-- op 0x03, `sendCharacter(byte)` (R125). -/
  | sendChar (b : Byte)
  /-- op 0x04, the Half-Port Writer (R120). -/
  | hpw (v : Byte)
  /-- op 0x05, `goTo(line, cell)` (R160). -/
  | goTo (line cell : Byte)
  /-- op 0x06, `goToClear(line, cell, count)` (R162). -/
  | goToClear (line cell count : Byte)
  /-- op 0x07, `createCharacter(bitmap[8], slot)` (R164). -/
  | createChar (slot : Byte) (bitmap : Bitmap)
  /-- op 0x08, the shift operation (R167). -/
  | shift (dir kind : Byte)
  /-- op 0x09, the string encoder (R190). -/
  | writeStr (ref : Word16)
  /-- op 0x0A, signed decimal; `v` is an s32 (R193). -/
  | writeDec (v : Word32)
  /-- op 0x0B, fixed 4-digit decimal; `v` is a u32 (R197). -/
  | writeDec4 (v : Word32)
  /-- op 0x0C, full binary (R200). -/
  | writeBin (v : Byte)
  /-- op 0x0D, short binary (R203). -/
  | writeBinShort (v : Byte)
  /-- op 0x0E, hexadecimal (R206). -/
  | writeHex (v : Byte)
  /-- op 0x0F, fixed-precision float; `x` is the bits of a binary32 (R210). -/
  | writeFloat (x : Word32)
  /-- RESERVED, op = 0x00 (R93). -/
  | reserved00
  /-- RESERVED, op in 0x10..0x1F (R93). -/
  | reserved10 (op : Byte)
  /-- RESERVED, op in 0x20..0x3F (R93). -/
  | reserved20 (op : Byte)
  /-- RESERVED, op in 0x40..0x7F (R93). -/
  | reserved40 (op : Byte)
  /-- RESERVED, op in 0x80..0xFF (R93). -/
  | reserved80 (op : Byte)
  /-- Wire command 0x01, clear display (R64). -/
  | wireClear
  /-- Wire command 0x06, entry mode: increment, no shift (R64). -/
  | wireEntryMode
  /-- Wire command 0x0F, display on, cursor on, blink on (R64). -/
  | wireDisplayCtrl
  /-- Wire command 0x10 (R64). -/
  | wireCursorShiftLeft
  /-- Wire command 0x14 (R64). -/
  | wireCursorShiftRight
  /-- Wire command 0x18 (R64). -/
  | wireDisplayShiftLeft
  /-- Wire command 0x1C (R64). -/
  | wireDisplayShiftRight
  /-- Wire command 0x28, function set: 4-bit, 2-line, 5×8 (R64). -/
  | wireFunctionSet
  /-- Wire command `01aaaaaa`, set CGRAM address (R64). -/
  | wireSetCgramAddr (a : BitVec 6)
  /-- Wire command `1aaaaaaa`, set DDRAM address (R64). -/
  | wireSetDdramAddr (a : BitVec 7)
  /-- A data byte, rs = 1 (R65). -/
  | wireData (b : Byte)
  /-- The lone nibble 0b0010 with rs = 0, one latch in Detect8 mode (R62). -/
  | wireInitNibble
deriving DecidableEq, Repr

end Sys2Proof
end

