-- ==== Sys2Proof/WellFormed.lean ====
section
/-!
DEFINITION. The well-formedness checks. Every operand of a request is typed and every value of its
type is admitted (spec/30_encoding.md R92), so the only check on an instruction is that a RESERVED row
carries an op code of that row (R93). The checks on a configuration are those of spec/10_state.md R23
(each pin exists, and the six are distinct) and of spec/00_scope.md R6.
-/

namespace Sys2Proof

/-- The operands are ones the instruction's row of the opcode table admits. -/
def Instr.wellFormed : Instr → Bool
  | .reserved10 op => op &&& 0xF0#8 == 0x10#8
  | .reserved20 op => op &&& 0xE0#8 == 0x20#8
  | .reserved40 op => op &&& 0xC0#8 == 0x40#8
  | .reserved80 op => op &&& 0x80#8 == 0x80#8
  | .init | .sendCmd _ | .sendChar _ | .hpw _ | .goTo _ _ | .goToClear _ _ _
  | .createChar _ _ | .shift _ _ | .writeStr _ | .writeDec _ | .writeDec4 _
  | .writeBin _ | .writeBinShort _ | .writeHex _ | .writeFloat _ | .reserved00
  | .wireClear | .wireEntryMode | .wireDisplayCtrl | .wireCursorShiftLeft
  | .wireCursorShiftRight | .wireDisplayShiftLeft | .wireDisplayShiftRight
  | .wireFunctionSet | .wireSetCgramAddr _ | .wireSetDdramAddr _ | .wireData _
  | .wireInitNibble => true

/-- The values of the six lines, in the order RS, E, D4, D5, D6, D7. -/
def Lines.toList {α : Type} (x : Lines α) : List α := [x.rs, x.e, x.d4, x.d5, x.d6, x.d7]

/-- All six (port, pin) pairs are distinct (spec/10_state.md R23). -/
def PinMap.wellFormed (p : PinMap) : Bool := decide p.toList.Nodup

/-- Every entry of PINMAP names a port of PORTS and a pin below PINS_PER_PORT (spec/10_state.md R23). -/
def Config.pinsExist (c : Config) : Bool :=
  c.pinmap.toList.all fun p => decide (p.port ∈ c.ports) && decide (p.pin.toNat < c.pinsPerPort)

/-- The parameters hold together (spec/00_scope.md R6, R23): the pins exist and are distinct, the
display has at least 20 columns and one base for each line, and the slots lie in the 64 bytes of CGRAM
(spec/20_memory.md R50). A step asks for distinct pins only (log entry 23). -/
def Config.wellFormed (c : Config) : Bool :=
  c.pinsExist && PinMap.wellFormed c.pinmap && decide (20 ≤ c.displayCols) &&
    decide (c.lineBases.length = c.displayLines) && decide (8 * c.cgramSlots ≤ 64)

end Sys2Proof
end

