-- ==== Sys2Proof/Decode.lean ====
section
/-!
DEFINITION. The decoders and the encoder (spec/30_encoding.md). There are three encodings: a request,
serialised as its op byte and its operand fields with multi-byte fields little-endian
(spec/20_memory.md R55, D32); the 9-bit wire word `rs ∥ b` of a transaction (R95); and the 5-bit
`rs ∥ n` of the one latch that the receiver takes as an instruction in Detect8 mode (R62).
-/

namespace Sys2Proof

/-- Why bytes or a word are no instruction. -/
inductive DecodeError where
  /-- There is no byte: no request has been issued. -/
  | noRequest
  /-- The record of `op` ends before its last operand byte. -/
  | truncatedRequest (op : Byte)
  /-- A command byte that the receiver reference gives no meaning (R64 last row, R102). -/
  | unmodelledCommand (w : WireWord)
  /-- A lone nibble that is not INIT_NIBBLE with rs = 0 (R62). -/
  | notInitNibble (n : BitVec 5)
  /-- Bytes remain after the one request the text should hold. -/
  | trailingBytes
deriving DecidableEq, Repr

/-- A 16-bit field from its two bytes, least significant first (R55). -/
def le16 (b0 b1 : Byte) : Word16 := b1 ++ b0

/-- A 32-bit field from its four bytes, least significant first (R55). -/
def le32 (b0 b1 b2 b3 : Byte) : Word32 := b3 ++ (b2 ++ (b1 ++ b0))

/-- The bytes of a 16-bit field, least significant first (R55). -/
def bytes16 (v : Word16) : List Byte := [v.extractLsb' 0 8, v.extractLsb' 8 8]

/-- The bytes of a 32-bit field, least significant first (R55). -/
def bytes32 (v : Word32) : List Byte :=
  [v.extractLsb' 0 8, v.extractLsb' 8 8, v.extractLsb' 16 8, v.extractLsb' 24 8]

/-- The rows of a glyph, bitmap[0] first (R94). -/
def Bitmap.toList (m : Bitmap) : List Byte :=
  [m.row0, m.row1, m.row2, m.row3, m.row4, m.row5, m.row6, m.row7]

/-- What a decoder answers: the instruction and the bytes after it, or the reason there is none. -/
abbrev Decoded := Except DecodeError (Instr × List Byte)

/-- An op with one u8 operand. -/
def operand8 (op : Byte) (k : Byte → Instr) : List Byte → Decoded
  | b :: rest => .ok (k b, rest)
  | [] => .error (.truncatedRequest op)

/-- An op with two u8 operands. -/
def operand8x2 (op : Byte) (k : Byte → Byte → Instr) : List Byte → Decoded
  | b0 :: b1 :: rest => .ok (k b0 b1, rest)
  | _ => .error (.truncatedRequest op)

/-- An op with three u8 operands. -/
def operand8x3 (op : Byte) (k : Byte → Byte → Byte → Instr) : List Byte → Decoded
  | b0 :: b1 :: b2 :: rest => .ok (k b0 b1 b2, rest)
  | _ => .error (.truncatedRequest op)

/-- An op with one u16 operand. -/
def operand16 (op : Byte) (k : Word16 → Instr) : List Byte → Decoded
  | b0 :: b1 :: rest => .ok (k (le16 b0 b1), rest)
  | _ => .error (.truncatedRequest op)

/-- An op with one 32-bit operand. -/
def operand32 (op : Byte) (k : Word32 → Instr) : List Byte → Decoded
  | b0 :: b1 :: b2 :: b3 :: rest => .ok (k (le32 b0 b1 b2 b3), rest)
  | _ => .error (.truncatedRequest op)

/-- A slot and its eight bitmap bytes, bitmap[0] first (R94). -/
def operandGlyph (op : Byte) (k : Byte → Bitmap → Instr) : List Byte → Decoded
  | s :: b0 :: b1 :: b2 :: b3 :: b4 :: b5 :: b6 :: b7 :: rest =>
    .ok (k s ⟨b0, b1, b2, b3, b4, b5, b6, b7⟩, rest)
  | _ => .error (.truncatedRequest op)

/-- The RESERVED row of an op code that selects no operation (R93). -/
def reservedRow (op : Byte) : Instr :=
  if op = 0x00#8 then .reserved00
  else if op &&& 0x80#8 = 0x80#8 then .reserved80 op
  else if op &&& 0xC0#8 = 0x40#8 then .reserved40 op
  else if op &&& 0xE0#8 = 0x20#8 then .reserved20 op
  else .reserved10 op

/-- The operand fields of a request, by its op code, matched exactly (R91, R92). -/
def decodeOperands (op : Byte) (rest : List Byte) : Decoded :=
  match op with
  | 0x01#8 => .ok (.init, rest)
  | 0x02#8 => operand8 op .sendCmd rest
  | 0x03#8 => operand8 op .sendChar rest
  | 0x04#8 => operand8 op .hpw rest
  | 0x05#8 => operand8x2 op .goTo rest
  | 0x06#8 => operand8x3 op .goToClear rest
  | 0x07#8 => operandGlyph op .createChar rest
  | 0x08#8 => operand8x2 op .shift rest
  | 0x09#8 => operand16 op .writeStr rest
  | 0x0A#8 => operand32 op .writeDec rest
  | 0x0B#8 => operand32 op .writeDec4 rest
  | 0x0C#8 => operand8 op .writeBin rest
  | 0x0D#8 => operand8 op .writeBinShort rest
  | 0x0E#8 => operand8 op .writeHex rest
  | 0x0F#8 => operand32 op .writeFloat rest
  | _ => .ok (reservedRow op, rest)

/-- The next request of a serialised request sequence, and the bytes after it (R90-R94). -/
def decodeRequest : List Byte → Decoded
  | [] => .error .noRequest
  | op :: rest => decodeOperands op rest

/-- A command byte, rs = 0; the first match applies (spec/20_memory.md R64). -/
def decodeCommand (b : Byte) : Option Instr :=
  if b.getLsbD 7 then some (.wireSetDdramAddr (b.setWidth 7))
  else if b.getLsbD 6 then some (.wireSetCgramAddr (b.setWidth 6))
  else match b with
    | 0x01#8 => some .wireClear
    | 0x28#8 => some .wireFunctionSet
    | 0x0F#8 => some .wireDisplayCtrl
    | 0x06#8 => some .wireEntryMode
    | 0x10#8 => some .wireCursorShiftLeft
    | 0x14#8 => some .wireCursorShiftRight
    | 0x18#8 => some .wireDisplayShiftLeft
    | 0x1C#8 => some .wireDisplayShiftRight
    | _ => none

/-- The wire word `rs ∥ b` of a delivered byte (R95): every rs = 1 byte is a data write (R102). -/
def decodeWire (w : WireWord) : Except DecodeError Instr :=
  if w.getLsbD 8 then .ok (.wireData (w.setWidth 8))
  else match decodeCommand (w.setWidth 8) with
    | some i => .ok i
    | none => .error (.unmodelledCommand w)

/-- The five bits `rs ∥ n` of a latch in Detect8 mode, for an INIT_NIBBLE (spec/20_memory.md R62). -/
def decodeNibbleFor (initNibble : Nibble) (n : BitVec 5) : Except DecodeError Instr :=
  if n = 0#1 ++ initNibble then .ok .wireInitNibble else .error (.notInitNibble n)

/-- The same for the INIT_NIBBLE of R6, which is the word of the opcode table's row. -/
def decodeNibble (n : BitVec 5) : Except DecodeError Instr := decodeNibbleFor 0b0010#4 n

/-- An instruction's encoding: in one of the three encodings. -/
inductive Code where
  | request (bytes : List Byte)
  | wire (w : WireWord)
  | nibble (n : BitVec 5)
deriving DecidableEq, Repr

/-- Reads one instruction from its encoding; a request's bytes hold that request alone. -/
def decode : Code → Except DecodeError Instr
  | .request bytes =>
    match decodeRequest bytes with
    | .ok (i, []) => .ok i
    | .ok (_, _ :: _) => .error .trailingBytes
    | .error e => .error e
  | .wire w => decodeWire w
  | .nibble n => decodeNibble n

/-- The encoder: R91 and R55 for requests, R64, R95 and R62 for what the receiver executes. -/
def encode : Instr → Code
  | .init => .request [0x01#8]
  | .sendCmd b => .request [0x02#8, b]
  | .sendChar b => .request [0x03#8, b]
  | .hpw v => .request [0x04#8, v]
  | .goTo line cell => .request [0x05#8, line, cell]
  | .goToClear line cell count => .request [0x06#8, line, cell, count]
  | .createChar slot bitmap => .request (0x07#8 :: slot :: bitmap.toList)
  | .shift dir kind => .request [0x08#8, dir, kind]
  | .writeStr ref => .request (0x09#8 :: bytes16 ref)
  | .writeDec v => .request (0x0A#8 :: bytes32 v)
  | .writeDec4 v => .request (0x0B#8 :: bytes32 v)
  | .writeBin v => .request [0x0C#8, v]
  | .writeBinShort v => .request [0x0D#8, v]
  | .writeHex v => .request [0x0E#8, v]
  | .writeFloat x => .request (0x0F#8 :: bytes32 x)
  | .reserved00 => .request [0x00#8]
  | .reserved10 op => .request [op]
  | .reserved20 op => .request [op]
  | .reserved40 op => .request [op]
  | .reserved80 op => .request [op]
  | .wireClear => .wire 0x001#9
  | .wireEntryMode => .wire 0x006#9
  | .wireDisplayCtrl => .wire 0x00F#9
  | .wireCursorShiftLeft => .wire 0x010#9
  | .wireCursorShiftRight => .wire 0x014#9
  | .wireDisplayShiftLeft => .wire 0x018#9
  | .wireDisplayShiftRight => .wire 0x01C#9
  | .wireFunctionSet => .wire 0x028#9
  | .wireSetCgramAddr a => .wire (0b001#3 ++ a)
  | .wireSetDdramAddr a => .wire (0b01#2 ++ a)
  | .wireData b => .wire (1#1 ++ b)
  | .wireInitNibble => .nibble 0b00010#5

/-- A row of the wire or wire-nibble encoding: what the receiver executes, not the block. -/
def Instr.onWire (i : Instr) : Bool :=
  match encode i with
  | .request _ => false
  | .wire _ => true
  | .nibble _ => true

/-- A row of spec/opcode_table.json: its mask and match, over the first `width` bits. -/
structure TableRow where
  mnemonic : String
  width : Nat
  mask : Nat
  pattern : Nat
deriving DecidableEq, Repr

/-- The row of spec/opcode_table.json an instruction stands for. -/
def Instr.row : Instr → TableRow
  | .init => ⟨"INIT", 8, 0xFF, 0x01⟩
  | .sendCmd _ => ⟨"SEND_CMD", 8, 0xFF, 0x02⟩
  | .sendChar _ => ⟨"SEND_CHAR", 8, 0xFF, 0x03⟩
  | .hpw _ => ⟨"HPW", 8, 0xFF, 0x04⟩
  | .goTo _ _ => ⟨"GOTO", 8, 0xFF, 0x05⟩
  | .goToClear _ _ _ => ⟨"GOTO_CLEAR", 8, 0xFF, 0x06⟩
  | .createChar _ _ => ⟨"CREATE_CHAR", 8, 0xFF, 0x07⟩
  | .shift _ _ => ⟨"SHIFT", 8, 0xFF, 0x08⟩
  | .writeStr _ => ⟨"WRITE_STR", 8, 0xFF, 0x09⟩
  | .writeDec _ => ⟨"WRITE_DEC", 8, 0xFF, 0x0A⟩
  | .writeDec4 _ => ⟨"WRITE_DEC4", 8, 0xFF, 0x0B⟩
  | .writeBin _ => ⟨"WRITE_BIN", 8, 0xFF, 0x0C⟩
  | .writeBinShort _ => ⟨"WRITE_BIN_SHORT", 8, 0xFF, 0x0D⟩
  | .writeHex _ => ⟨"WRITE_HEX", 8, 0xFF, 0x0E⟩
  | .writeFloat _ => ⟨"WRITE_FLOAT", 8, 0xFF, 0x0F⟩
  | .reserved00 => ⟨"RESERVED", 8, 0xFF, 0x00⟩
  | .reserved10 _ => ⟨"RESERVED", 8, 0xF0, 0x10⟩
  | .reserved20 _ => ⟨"RESERVED", 8, 0xE0, 0x20⟩
  | .reserved40 _ => ⟨"RESERVED", 8, 0xC0, 0x40⟩
  | .reserved80 _ => ⟨"RESERVED", 8, 0x80, 0x80⟩
  | .wireClear => ⟨"WIRE_CLEAR", 9, 0x1FF, 0x001⟩
  | .wireEntryMode => ⟨"WIRE_ENTRY_MODE", 9, 0x1FF, 0x006⟩
  | .wireDisplayCtrl => ⟨"WIRE_DISPLAY_CTRL", 9, 0x1FF, 0x00F⟩
  | .wireCursorShiftLeft => ⟨"WIRE_CURSOR_SHIFT_LEFT", 9, 0x1FF, 0x010⟩
  | .wireCursorShiftRight => ⟨"WIRE_CURSOR_SHIFT_RIGHT", 9, 0x1FF, 0x014⟩
  | .wireDisplayShiftLeft => ⟨"WIRE_DISPLAY_SHIFT_LEFT", 9, 0x1FF, 0x018⟩
  | .wireDisplayShiftRight => ⟨"WIRE_DISPLAY_SHIFT_RIGHT", 9, 0x1FF, 0x01C⟩
  | .wireFunctionSet => ⟨"WIRE_FUNCTION_SET", 9, 0x1FF, 0x028⟩
  | .wireSetCgramAddr _ => ⟨"WIRE_SET_CGRAM_ADDR", 9, 0x1C0, 0x040⟩
  | .wireSetDdramAddr _ => ⟨"WIRE_SET_DDRAM_ADDR", 9, 0x180, 0x080⟩
  | .wireData _ => ⟨"WIRE_DATA", 9, 0x100, 0x100⟩
  | .wireInitNibble => ⟨"WIRE_INIT_NIBBLE", 5, 0x1F, 0x02⟩

/-- The first `width` bits of an encoding, numbered as the opcode table numbers them. -/
def Code.tableBits : Code → Nat
  | .request (op :: _) => op.toNat
  | .request [] => 0
  | .wire w => w.toNat
  | .nibble n => n.toNat

/-- The number of bytes of a request, by its op code (opcode_table.json `length_bytes`; R94). -/
def requestLength (op : Byte) : Nat :=
  match op with
  | 0x02#8 | 0x03#8 | 0x04#8 | 0x0C#8 | 0x0D#8 | 0x0E#8 => 2
  | 0x05#8 | 0x08#8 | 0x09#8 => 3
  | 0x06#8 => 4
  | 0x0A#8 | 0x0B#8 | 0x0F#8 => 5
  | 0x07#8 => 10
  | _ => 1

/-- The first `n` bytes of the bits `w`, byte 0 being bits 7..0; bytes above `w` are 0. -/
def bytesOfBits (w : Nat) : Nat → List Byte
  | 0 => []
  | n + 1 => BitVec.ofNat 8 w :: bytesOfBits (w / 256) n

/-- The encoding that `nbits` bits `w` of the opcode table's numbering stand for. The table's request
rows count bits of the op byte (8), its wire rows 9 and its one wire-nibble row 5. A count of 9 to 16
is read as a wire word where `w` is one the receiver decodes, and as a request otherwise; a count of
at most 5 as the lone nibble. DESIGN CHOICE (log entry 13). -/
def tableCode (nbits w : Nat) : Code :=
  let request := Code.request (bytesOfBits w (requestLength (BitVec.ofNat 8 w)))
  if nbits ≤ 5 then .nibble (BitVec.ofNat 5 w)
  else if nbits ≤ 8 then request
  else if nbits ≤ 16 ∧ w < 512 then
    match decodeWire (BitVec.ofNat 9 w) with
    | .ok _ => .wire (BitVec.ofNat 9 w)
    | .error _ => request
  else request

/-- The instruction the decoder reads from an instruction whose bits are `w`, numbered as
spec/opcode_table.json numbers them; the bits above `nbits` are 0. -/
def decodeTableWord (nbits w : Nat) : Option Instr :=
  match decode (tableCode nbits w) with
  | .ok i => some i
  | .error _ => none

end Sys2Proof
end

