-- ==== Sys2Proof/Machine/Params.lean ====
section
/-!
DEFINITION. The values of the parameters (spec/00_scope.md R6): the source's where it fixes one, and
the spec's default for each that it leaves open.
-/

namespace Sys2Proof.Machine

/-- The build's `PINMAP`. The spec gives no map: DESIGN CHOICE (log entry 3). -/
def standardPinmap : PinMap :=
  { rs := ⟨.a, 0⟩, e := ⟨.a, 1⟩, d4 := ⟨.a, 2⟩, d5 := ⟨.a, 3⟩, d6 := ⟨.a, 4⟩, d7 := ⟨.a, 5⟩ }

/-- The values of spec/00_scope.md R6; those of D10, D15, D25, D26 and D28 are defaults (log entry 4). -/
def Config.standard : Config :=
  { pinmap := standardPinmap
    ports := [.a, .b, .c, .d]
    pinsPerPort := 8
    displayLines := 4
    displayCols := 20
    lineBases := [0x00#8, 0x40#8, 0x14#8, 0x54#8]
    cgramSlots := 8
    tPulseMs := 1
    tPowerMs := 35
    tFsetUs := 45
    tDctlUs := 45
    tClearMs := 2
    tCgsetUs := 50
    tCgbyteUs := 100
    tCgrestoreUs := 100
    cmdFunctionSet := 0x28#8
    cmdDisplayCtrl := 0x0F#8
    cmdClear := 0x01#8
    cmdEntryMode := 0x06#8
    initNibble := 0b0010#4
    gpioResetDir := .input
    gpioResetLevel := false
    hostMemSize := 65536
    execClearUs := 1520
    execOtherUs := 37
    execDataUs := 41
    powerUpUs := 15000 }

end Sys2Proof.Machine
end

