-- ==== Sys2Proof/Machine/State.lean ====
section
/-!
DEFINITION. The machine's state as plain data, and the state after a power-on reset
(spec/10_state.md, spec/20_memory.md R59, spec/70_reset_and_hazards.md R260).
The spec's value ⊥ ("unspecified", a value "a model must treat as any value", R260) is `none`.
-/

namespace Sys2Proof.Machine

/-- One call on a consumed interface, the block's only output (R24). -/
inductive Event where
  /-- `setDirection` of the pin of line `l`. -/
  | dir (l : Line) (d : PinDir)
  /-- `setLevel` of the pin of line `l`. -/
  | lvl (l : Line) (v : Level)
  /-- `delayMilliseconds(n)`: at least `n` ms pass. -/
  | waitMs (n : Nat)
  /-- `delayMicroseconds(n)`: at least `n` µs pass. -/
  | waitUs (n : Nat)
deriving DecidableEq, Repr

/-- What a request writes when its last event has been emitted (R27; R190 for the string scan). -/
inductive EndWrite where
  | nothing
  /-- INIT: `ready <- 1` (R147). -/
  | sessionReady
  /-- WRITE_STR: the scan reached `HOST_MEM_SIZE` at address `a` (R190, R239). -/
  | stringOutOfBounds (a : Nat)
deriving DecidableEq, Repr

/-- The sequencer position (R20, R27). `running es i w`: `i` events of `es` have been emitted. -/
inductive Seq where
  | idle
  | running (events : List Event) (index : Nat) (atEnd : EndWrite)
deriving DecidableEq, Repr

/-- A sticky fault mark with the info spec/60_exceptions.md R231 records. It stops nothing (R240). -/
inductive FaultMark where
  | preInitTransport (op : Byte)
  | levelOnNonOutput (l : Line)
  | floatOutOfRange (bits : Word32)
  | stringOutOfBounds (a : Nat)
deriving DecidableEq, Repr

/-- A sticky refusal mark with the info R231 records. It stops nothing (R240), but for ConfigInvalid. -/
inductive RefusalMark where
  | slotOutOfRange (slot : Byte)
  | reservedOp (op : Byte)
  | configInvalid (pinmap : PinMap)
deriving DecidableEq, Repr

/-- The receiver's interface mode (spec/20_memory.md R59). -/
inductive RMode where
  | detect8 | four | unknown
deriving DecidableEq, Repr

/-- Which half of a byte the next latch is (R59, R63). -/
inductive Phase where
  | hi | lo
deriving DecidableEq, Repr

/-- Which memory a data write reaches (R59). -/
inductive Target where
  | ddram | cgram
deriving DecidableEq, Repr

/-- The receiver reference state (R59); `none` is the spec's ⊥. -/
structure Receiver where
  rmode : RMode
  phase : Phase
  hold : Option Nibble
  holdRs : Option Level
  /-- The address counter, a u7 or ⊥. -/
  ac : Option (BitVec 7)
  target : Target
  /-- DDRAM, addresses 0..127; an address not listed is ⊥. -/
  ddram : List Host.Cell
  /-- CGRAM, addresses 0..63; an address not listed is ⊥. -/
  cgram : List Host.Cell
  fset : Option Byte
  dctl : Option Byte
  entry : Option Byte
  shifted : Bool
  /-- The wait lower bounds since the last instruction latch, in µs. -/
  gap : Nat
  /-- The execution time the last instruction needs, in µs. -/
  need : Nat
deriving DecidableEq, Repr

/-- The receiver at power-on (R59, R260). -/
def Receiver.powerOn (c : Config) : Receiver :=
  { rmode := .detect8, phase := .hi, hold := none, holdRs := none, ac := none, target := .ddram
    ddram := [], cgram := [], fset := none, dctl := none, entry := none, shifted := false
    gap := 0, need := c.powerUpUs }

/-- The one receiver state of mode Unknown: every field reads ⊥ (R67; log entry 11). -/
def Receiver.lost : Receiver :=
  { rmode := .unknown, phase := .hi, hold := none, holdRs := none, ac := none, target := .ddram
    ddram := [], cgram := [], fset := none, dctl := none, entry := none, shifted := false
    gap := 0, need := 0 }

structure State where
  /-- The configuration, PINMAP among it (spec/10_state.md R23); no step writes it. -/
  cfg : Config
  /-- The Display Controller Session exists (R21). -/
  ready : Bool
  /-- The direction of each line (R22). -/
  dir : Lines PinDir
  /-- The output level of each line (R22). -/
  lvl : Lines Level
  /-- The sticky fault marks, oldest first, none twice (R26). -/
  faults : List FaultMark
  /-- The sticky refusal marks, oldest first, none twice (R26). -/
  refused : List RefusalMark
  /-- The sequencer position (R27). -/
  seq : Seq
  /-- Every event emitted since reset, oldest first (R25). -/
  trace : List Event
  /-- HOST_MEM (spec/20_memory.md R50, R58); an address not listed reads 0x00 (log entry 2). -/
  hostMem : List Host.Cell
  /-- The model's own: the serialised requests issued and not yet accepted (log entry 6). -/
  input : List Byte
  /-- The receiver reference state (R59). -/
  rx : Receiver
deriving DecidableEq, Repr

/-- Reasons to stop with a fault. There is none: the block has no trap, and after any fault it serves
the next request (spec/60_exceptions.md R240), so nobody raises one. Every fault of the spec is a
`FaultMark` in `faults`. -/
inductive Fault where
deriving DecidableEq, Repr

/-- Reasons to stop with a refusal. -/
inductive Refusal where
  /-- An instruction with no meaning in the model, by its mnemonic. Raised by an arm of `exec` only;
  no arm does. Safe. -/
  | notModelled (mnemonic : String)
  /-- PINMAP has two equal (port, pin) pairs: "the model has no run" (R231, R238). Raised by `step`.
  Safe: the spec's own refusal. -/
  | configInvalid
  /-- The issued bytes end inside the record of `op`: they are no request (spec/30_encoding.md R94).
  Raised by `step`. Safe: a duty of the host's that it has not met (R250; log entry 6). -/
  | truncatedRequest (op : Byte)
deriving DecidableEq, Repr

/-- Power-on reset of block and display together, for any configuration (R33, R260; R238). -/
def State.powerOn (c : Config) : State :=
  { cfg := c
    ready := false
    dir := ⟨c.gpioResetDir, c.gpioResetDir, c.gpioResetDir, c.gpioResetDir, c.gpioResetDir, c.gpioResetDir⟩
    lvl := ⟨c.gpioResetLevel, c.gpioResetLevel, c.gpioResetLevel, c.gpioResetLevel, c.gpioResetLevel,
      c.gpioResetLevel⟩
    faults := []
    refused := if PinMap.wellFormed c.pinmap then [] else [.configInvalid c.pinmap]
    seq := .idle
    trace := []
    hostMem := []
    input := []
    rx := Receiver.powerOn c }

/-- The machine right after reset, with the default parameters. -/
def State.reset : State := State.powerOn Config.standard

end Sys2Proof.Machine
end

