-- ==== Sys2Proof/Machine/Flags.lean ====
section
/-!
DEFINITION. The block has no flags and no condition codes (spec/10_state.md R31); what a request can
record about itself are the sticky marks of spec/60_exceptions.md R231. Recording a mark is all that
"taking an exception" is on this hardware: no state is saved, no mode changes and no control is
transferred (R240), so the two operations `State.raise` and `State.refuse` are the whole of it, and
there is no return from it (R242).
-/

namespace Sys2Proof.Machine

/-- The kinds of `faults` (spec/10_state.md R26). -/
inductive FaultKind where
  | preInitTransport | levelOnNonOutput | floatOutOfRange | stringOutOfBounds
deriving DecidableEq, Repr

/-- The kinds of `refused` (R26). -/
inductive RefusalKind where
  | slotOutOfRange | reservedOp | configInvalid
deriving DecidableEq, Repr

def FaultMark.kind : FaultMark → FaultKind
  | .preInitTransport _ => .preInitTransport
  | .levelOnNonOutput _ => .levelOnNonOutput
  | .floatOutOfRange _ => .floatOutOfRange
  | .stringOutOfBounds _ => .stringOutOfBounds

def RefusalMark.kind : RefusalMark → RefusalKind
  | .slotOutOfRange _ => .slotOutOfRange
  | .reservedOp _ => .reservedOp
  | .configInvalid _ => .configInvalid

/-- The cause number of a fault: its place in the table of R231 (D31). -/
def FaultKind.code : FaultKind → Nat
  | .preInitTransport => 1
  | .levelOnNonOutput => 2
  | .floatOutOfRange => 3
  | .stringOutOfBounds => 4

/-- The cause number of a refusal: its place in the table of R231 (D31). -/
def RefusalKind.code : RefusalKind → Nat
  | .slotOutOfRange => 5
  | .reservedOp => 6
  | .configInvalid => 7

/-- Adds an element to a set kept oldest first, none twice. -/
def insertMark {α : Type} [DecidableEq α] (m : α) (marks : List α) : List α :=
  if m ∈ marks then marks else marks ++ [m]

/-- `raise F(info)`: adds a fault to the sticky set; control does not change (spec/00_scope.md R9). -/
def State.raise (m : FaultMark) (s : State) : State := { s with faults := insertMark m s.faults }

/-- `refuse R`: adds a refusal to the sticky set (R9); the request that does it emits nothing. -/
def State.refuse (m : RefusalMark) (s : State) : State := { s with refused := insertMark m s.refused }

/-- A fault of this kind has been recorded. -/
def State.hasFault (k : FaultKind) (s : State) : Bool := s.faults.any fun m => m.kind == k

/-- A refusal of this kind has been recorded. -/
def State.hasRefusal (k : RefusalKind) (s : State) : Bool := s.refused.any fun m => m.kind == k

end Sys2Proof.Machine
end

