-- ==== Sys2Proof/Machine/Memory.lean ====
section
/-!
DEFINITION. Memories as lists of (address, byte) pairs in one canonical form: addresses strictly
rising, and no pair equal to what an address that is not listed reads as. DDRAM and CGRAM list what
the receiver has stored, and an address not listed is ⊥ (spec/20_memory.md R59). Host memory reads
0x00 at an address that is not listed (log entry 2), so it lists no 0x00.
-/

namespace Sys2Proof.Machine

/-- The byte listed at an address, or ⊥. -/
def Memory.get? : List Host.Cell → Nat → Option Byte
  | [], _ => none
  | (b, v) :: rest, a => if a = b then some v else Memory.get? rest a

/-- Lists a byte at an address, in place. -/
def Memory.put : List Host.Cell → Nat → Byte → List Host.Cell
  | [], a, v => [(a, v)]
  | (b, w) :: rest, a, v =>
    if a < b then (a, v) :: (b, w) :: rest
    else if a = b then (a, v) :: rest
    else (b, w) :: Memory.put rest a v

/-- Makes an address unlisted. -/
def Memory.erase : List Host.Cell → Nat → List Host.Cell
  | [], _ => []
  | (b, w) :: rest, a => if a = b then rest else (b, w) :: Memory.erase rest a

/-- `v` at every address from 0 to `n - 1`. -/
def Memory.fill (n : Nat) (v : Byte) : List Host.Cell := (List.range n).map fun a => (a, v)

/-- Every listed address is above `lo - 1`, and they rise strictly. -/
def Memory.risingFrom : Nat → List Host.Cell → Bool
  | _, [] => true
  | lo, (a, _) :: rest => decide (lo ≤ a) && Memory.risingFrom (a + 1) rest

/-- The canonical form of a memory whose unlisted addresses are ⊥: addresses strictly rising, all
below `size`. -/
def Memory.wf (size : Nat) (m : List Host.Cell) : Bool :=
  Memory.risingFrom 0 m && m.all fun c => decide (c.1 < size)

/-- `MemRead(a, 1)` of host memory, for an address inside the window (spec/20_memory.md R58). -/
def HostMem.read (m : List Host.Cell) (a : Nat) : Byte := (Memory.get? m a).getD 0x00#8

/-- The host sets one byte of its memory; the block never does (R58). -/
def HostMem.write (m : List Host.Cell) (a : Nat) (v : Byte) : List Host.Cell :=
  if v = 0x00#8 then Memory.erase m a else Memory.put m a v

/-- The host places bytes at consecutive addresses. -/
def HostMem.writeList (m : List Host.Cell) : Nat → List Byte → List Host.Cell
  | _, [] => m
  | a, b :: bs => HostMem.writeList (HostMem.write m a b) (a + 1) bs

/-- The canonical form of host memory: strictly rising, and no byte 0x00 listed. -/
def HostMem.wf (m : List Host.Cell) : Bool :=
  Memory.risingFrom 0 m && m.all fun c => decide (c.2 ≠ 0x00#8)

/-- The number of addresses of DDRAM, a u7 (R59). -/
def ddramSize : Nat := 128

/-- The number of bytes of CGRAM (R50, R59). -/
def cgramSize : Nat := 64

/-- Every memory of the state is in its canonical form. -/
def State.memoryWf (s : State) : Bool :=
  Memory.wf ddramSize s.rx.ddram && Memory.wf cgramSize s.rx.cgram && HostMem.wf s.hostMem

end Sys2Proof.Machine
end

