-- ==== Sys2Proof/Machine/Ops.lean ====
section
/-!
DEFINITION. The named operations every meaning is made of: the lines, the primitives `hpw`, `pulse`
and `transport` as event lists (spec/40_transport.md R120-R123), the acceptance of a request and its
end (spec/10_state.md R27), what one event does to the block's registers, and the host's operations.
-/

namespace Sys2Proof.Machine

/-- `x[l]`. -/
def Lines.get {α : Type} (x : Lines α) : Line → α
  | .rs => x.rs
  | .e => x.e
  | .d4 => x.d4
  | .d5 => x.d5
  | .d6 => x.d6
  | .d7 => x.d7

/-- `x[l] <- v`. -/
def Lines.set {α : Type} (x : Lines α) (l : Line) (v : α) : Lines α :=
  match l with
  | .rs => { x with rs := v }
  | .e => { x with e := v }
  | .d4 => { x with d4 := v }
  | .d5 => { x with d5 := v }
  | .d6 => { x with d6 := v }
  | .d7 => { x with d7 := v }

/-- The six lines in the order of INIT step 1 (spec/41_init.md R141). -/
def allLines : List Line := [.rs, .e, .d4, .d5, .d6, .d7]

/-- The Half-Port Writer: bits 0..3 of `v` on D4..D7, in that order (R120). -/
def hpwEvents (v : Byte) : List Event :=
  [.lvl .d4 (v.getLsbD 0), .lvl .d5 (v.getLsbD 1), .lvl .d6 (v.getLsbD 2), .lvl .d7 (v.getLsbD 3)]

/-- The enable pulse (R122). -/
def pulse (c : Config) : List Event := [.lvl .e true, .waitMs c.tPulseMs, .lvl .e false]

/-- The transaction `rs ∥ b` (R123): high nibble first, RS fixed throughout. -/
def transport (c : Config) (rs : Level) (b : Byte) : List Event :=
  .lvl .rs rs :: (hpwEvents (b >>> 4) ++ pulse c ++ hpwEvents b ++ pulse c)

/-- A command transaction, rs = 0 (R95). -/
def commandEvents (c : Config) (b : Byte) : List Event := transport c false b

/-- A character transaction, rs = 1 (R95), and the wire half of `emit_char` (R189). -/
def charEvents (c : Config) (b : Byte) : List Event := transport c true b

/-- One `emit_char` for each character (R189). -/
def stringEvents (c : Config) (cs : List Byte) : List Event := cs.flatMap (charEvents c)

/-- The end-of-request write and `seq <- Idle` (R27). -/
def State.finish (w : EndWrite) (s : State) : State :=
  match w with
  | .nothing => { s with seq := .idle }
  | .sessionReady => { s with seq := .idle, ready := true }
  | .stringOutOfBounds a => { s with seq := .idle }.raise (.stringOutOfBounds a)

/-- "When i = length(E), the request's end-of-request writes apply and `seq <- Idle`" (R27). It is
part of the step that emits the last event or accepts an empty list (log entry 7). -/
def State.settle (s : State) : State :=
  match s.seq with
  | .idle => s
  | .running es i w => if i < es.length then s else s.finish w

/-- The state that has just accepted a request with this event list and end write (R27). -/
def State.accept (es : List Event) (w : EndWrite) (s : State) : State :=
  { s with seq := .running es 0 w }.settle

/-- The check before a request's first transport (spec/60_exceptions.md R232): once per request, and
not at all for a request that transports nothing. -/
def State.checkReady (op : Byte) (es : List Event) (s : State) : State :=
  if s.ready || es.isEmpty then s else s.raise (.preInitTransport op)

/-- Accepts a request other than INIT and HPW: its event list is made of transports and waits. -/
def State.acceptTransports (op : Byte) (es : List Event) (w : EndWrite) (s : State) : State :=
  (s.checkReady op es).accept es w

/-- Accepts a request that writes characters through `emit_char` (R189). -/
def State.acceptChars (op : Byte) (cs : List Byte) (w : EndWrite) (s : State) : State :=
  s.acceptTransports op (stringEvents s.cfg cs) w

/-- A request with a RESERVED op code (spec/30_encoding.md R93): the mark, and no event. -/
def State.refuseReserved (op : Byte) (s : State) : State :=
  (s.refuse (.reservedOp op)).accept [] .nothing

/-- The directions after an event (R22). -/
def Event.dirs (ev : Event) (x : Lines PinDir) : Lines PinDir :=
  match ev with
  | .dir l d => Lines.set x l d
  | .lvl _ _ => x
  | .waitMs _ => x
  | .waitUs _ => x

/-- The levels after an event (R22). -/
def Event.levels (ev : Event) (x : Lines Level) : Lines Level :=
  match ev with
  | .lvl l v => Lines.set x l v
  | .dir _ _ => x
  | .waitMs _ => x
  | .waitUs _ => x

/-- The fault marks after an event that finds the directions `x`: a level set on a line that is not
an output marks LevelOnNonOutput (spec/60_exceptions.md R233). -/
def Event.marks (ev : Event) (x : Lines PinDir) (fs : List FaultMark) : List FaultMark :=
  match ev with
  | .lvl l _ => if Lines.get x l = .output then fs else insertMark (.levelOnNonOutput l) fs
  | .dir _ _ => fs
  | .waitMs _ => fs
  | .waitUs _ => fs

/-- What an event does to `dir`, `lvl` and `faults` (R22, R233). -/
def State.gpio (ev : Event) (s : State) : State :=
  { s with dir := ev.dirs s.dir, lvl := ev.levels s.lvl, faults := ev.marks s.dir s.faults }

/-- Appends an event to the trace (R25). -/
def State.record (ev : Event) (s : State) : State := { s with trace := s.trace ++ [ev] }

/-- The position after one event (R27). -/
def Seq.advance : Seq → Seq
  | .idle => .idle
  | .running es i w => .running es (i + 1) w

/-- Advances the sequencer by exactly one event (R27). -/
def State.advance (s : State) : State := { s with seq := s.seq.advance }

/-- The wait lower bound of an event, in µs (R14, R66). -/
def Event.waitMicros : Event → Nat
  | .waitMs n => n * 1000
  | .waitUs n => n
  | .dir _ _ => 0
  | .lvl _ _ => 0

/-- The sum of the wait lower bounds of an event list, in µs. -/
def totalWait (es : List Event) : Nat := (es.map Event.waitMicros).sum

/-- The host issues a request: its bytes join those not yet accepted (spec/60_exceptions.md R250). -/
def State.issue (i : Instr) (s : State) : State :=
  match encode i with
  | .request bs => { s with input := s.input ++ bs }
  | .wire _ => s
  | .nibble _ => s

/-- The host sets bytes of its memory from address `a` on (R250). -/
def State.poke (a : Nat) (bs : List Byte) (s : State) : State :=
  { s with hostMem := HostMem.writeList s.hostMem a bs }

/-- A power cycle of block and display together, at any moment (R249, R260). Host memory is the
host's own and stays; what was issued and not accepted is dropped (log entry 14). -/
def State.powerCycle (s : State) : State := { State.powerOn s.cfg with hostMem := s.hostMem }

/-- A reset of the block while the display stays powered (spec/70_reset_and_hazards.md R261): the
receiver keeps its state. -/
def State.blockReset (s : State) : State := { s.powerCycle with rx := s.rx }

end Sys2Proof.Machine
end

