-- ==== Sys2Proof/Machine/Operands.lean ====
section
/-!
DEFINITION. The operand forms: the address calculator (spec/42_addressing.md R159), the command bytes
the block assembles (spec/30_encoding.md R96-R98) and the characters and digit sequences of the
encoders (R100; spec/43_encoders.md).
-/

namespace Sys2Proof.Machine

/-- `lineBase`, defined for the lines 1 to `DISPLAY_LINES` only (R159). A line among them without a base,
which R6 does not have, is an invalid line too: DESIGN CHOICE (log entry 23). -/
def lineBase (c : Config) (line : Byte) : Option Byte :=
  if 1 ≤ line.toNat ∧ line.toNat ≤ c.displayLines then c.lineBases[line.toNat - 1]? else none

/-- `addr_cmd`, the sum taken mod 256 (R97, R159). -/
def addrCmd (base cell : Byte) : Byte := 0x80#8 + base + cell

/-- `cg_cmd`, for slots 0 to 7 (R98). -/
def cgCmd (slot : Byte) : Byte := 0x40#8 + 8#8 * slot

/-- The cursor or display shift command `0x10 + 8·kind + 4·dir` (R167). -/
def shiftCmd (dir kind : Byte) : Byte := 0x10#8 + 8#8 * kind + 4#8 * dir

/-- The events of `GOTO(line, cell)`: none for a line the display does not have (R160). -/
def goToEvents (c : Config) (line cell : Byte) : List Event :=
  match lineBase c line with
  | some base => commandEvents c (addrCmd base cell)
  | none => []

/-- `dchar(d)` for d in 0..9 (R100). -/
def dchar (d : Nat) : Byte := 0x30#8 + BitVec.ofNat 8 d

/-- `hchar(d)` for a nibble: '0'..'9', then 'A'..'F' (R100). -/
def hchar (d : Nibble) : Byte :=
  if d.toNat < 10 then 0x30#8 + BitVec.ofNat 8 d.toNat else 0x41#8 + BitVec.ofNat 8 (d.toNat - 10)

/-- '-' (R100). -/
def minusChar : Byte := 0x2D#8

/-- '.' (R100). -/
def pointChar : Byte := 0x2E#8

/-- ' ' (R100). -/
def spaceChar : Byte := 0x20#8

/-- The reverse buffer of R193: the decimal digits of `m`, least significant first, at most `n`. -/
def reverseDigits : Nat → Nat → List Nat
  | 0, _ => []
  | n + 1, m => if m = 0 then [] else m % 10 :: reverseDigits n (m / 10)

/-- WRITE_DEC's characters for the integer `v` (R193). A magnitude of an s32 has at most 10 digits. -/
def decChars (v : Int) : List Byte :=
  if v = 0 then [dchar 0]
  else (if v < 0 then [minusChar] else []) ++ (reverseDigits 10 v.natAbs).reverse.map dchar

/-- WRITE_DEC4's characters: `(v mod 10^(k+1)) div 10^k` for k = 3..0 (R197). -/
def dec4Chars (v : Nat) : List Byte := [3, 2, 1, 0].map fun k => dchar (v % 10 ^ (k + 1) / 10 ^ k)

/-- The character of bit `i`: `0x30 + v[i]` (R200). -/
def bitChar (v : Byte) (i : Nat) : Byte := 0x30#8 + BitVec.ofNat 8 (v.getLsbD i).toNat

/-- WRITE_BIN's characters, bit 7 first (R200). -/
def binChars (v : Byte) : List Byte := [7, 6, 5, 4, 3, 2, 1, 0].map (bitChar v)

/-- The highest set bit, if any (R203). -/
def topBit (v : Byte) : Option Nat := [7, 6, 5, 4, 3, 2, 1, 0].find? fun i => v.getLsbD i

/-- WRITE_BIN_SHORT's characters: from the highest set bit down, none for 0 (R203). -/
def binShortChars (v : Byte) : List Byte :=
  match topBit v with
  | none => []
  | some h => (List.range (h + 1)).reverse.map (bitChar v)

/-- WRITE_HEX's characters, the high nibble first (R206). -/
def hexChars (v : Byte) : List Byte := [hchar (v.extractLsb' 4 4), hchar (v.extractLsb' 0 4)]

/-- The scan of WRITE_STR from address `a` with `n` bytes of host memory left (R190): the characters
before the terminator, or before the end of host memory. -/
def scanString (m : List Host.Cell) : Nat → Nat → List Byte × EndWrite
  | 0, a => ([], .stringOutOfBounds a)
  | n + 1, a =>
    let c := HostMem.read m a
    if c = 0x00#8 then ([], .nothing)
    else
      let r := scanString m n (a + 1)
      (c :: r.1, r.2)

/-- WRITE_STR's characters and end write: a null reference emits nothing (R190). -/
def stringAt (s : State) (ref : Word16) : List Byte × EndWrite :=
  if ref = 0#16 then ([], .nothing)
  else scanString s.hostMem (s.cfg.hostMemSize - ref.toNat) ref.toNat

end Sys2Proof.Machine
end

