-- ==== Sys2Proof/Machine/Addressing.lean ====
section
/-!
DEFINITION. The Addressing Engine: GOTO, GOTO_CLEAR, CREATE_CHAR and SHIFT (spec/42_addressing.md).
-/

namespace Sys2Proof.Machine

/-- GOTO (R160): a line the display does not have is a silent no-op. -/
def execGoTo (line cell : Byte) (s : State) : Host.Outcome State Fault Refusal :=
  .next (s.acceptTransports 0x05#8 (goToEvents s.cfg line cell) .nothing)

/-- The events of GOTO_CLEAR (R162): those of GOTO, then `count` spaces. -/
def goToClearEvents (c : Config) (line cell count : Byte) : List Event :=
  goToEvents c line cell ++ stringEvents c (List.replicate count.toNat spaceChar)

/-- GOTO_CLEAR (R162): the spaces are sent also after an invalid line (D17). -/
def execGoToClear (line cell count : Byte) (s : State) : Host.Outcome State Fault Refusal :=
  .next (s.acceptTransports 0x06#8 (goToClearEvents s.cfg line cell count) .nothing)

/-- The events of CREATE_CHAR for a slot there is (R164): the CGRAM address, the eight bytes as they
are given (R165), the restore command, each with its wait. -/
def createCharEvents (c : Config) (slot : Byte) (bitmap : Bitmap) : List Event :=
  commandEvents c (cgCmd slot) ++ [.waitUs c.tCgsetUs]
    ++ bitmap.toList.flatMap (fun b => charEvents c b ++ [.waitUs c.tCgbyteUs])
    ++ commandEvents c 0x80#8 ++ [.waitUs c.tCgrestoreUs]

/-- CREATE_CHAR (R164): a slot past the last, 7 of the standard 8, is refused with a mark and no event
(R236). -/
def execCreateChar (slot : Byte) (bitmap : Bitmap) (s : State) : Host.Outcome State Fault Refusal :=
  if s.cfg.cgramSlots ≤ slot.toNat then .next ((s.refuse (.slotOutOfRange slot)).accept [] .nothing)
  else .next (s.acceptTransports 0x07#8 (createCharEvents s.cfg slot bitmap) .nothing)

/-- The events of SHIFT (R167): none unless both selectors are 0 or 1. -/
def shiftEvents (c : Config) (dir kind : Byte) : List Event :=
  if dir.toNat ≤ 1 ∧ kind.toNat ≤ 1 then commandEvents c (shiftCmd dir kind) else []

/-- SHIFT (R167): invalid selectors are a silent no-op; valid ones send one command (D19). -/
def execShift (dir kind : Byte) (s : State) : Host.Outcome State Fault Refusal :=
  .next (s.acceptTransports 0x08#8 (shiftEvents s.cfg dir kind) .nothing)

end Sys2Proof.Machine
end

