-- ==== Sys2Proof/Machine/Float.lean ====
section
/-!
DEFINITION. The float primitives of spec/43_encoders.md R211: IEEE 754 binary32, rounding to nearest
with ties to even, subnormals kept, no exception flag. Every finite binary32 value is a whole number
of units of 2^-149, so a finite value is a sign and that whole number, and each operation computes
exactly and then rounds once.
-/

namespace Sys2Proof.Machine

/-- A binary32 value: `fin neg mag` is `mag · 2^-149`, negated when `neg`. The two zeros differ. -/
inductive F32 where
  | nan
  | inf (neg : Bool)
  | fin (neg : Bool) (mag : Nat)
deriving DecidableEq, Repr

/-- The number 1 in units of 2^-149. -/
def f32One : Nat := 2 ^ 149

/-- 2^128, the first magnitude beyond the format, in units of 2^-149. -/
def f32Limit : Nat := 2 ^ 128 * f32One

/-- The value of 32 bits. -/
def F32.ofBits (x : Word32) : F32 :=
  let neg := x.getLsbD 31
  let e := (x.extractLsb' 23 8).toNat
  let f := (x.extractLsb' 0 23).toNat
  if e = 255 then (if f = 0 then .inf neg else .nan)
  else if e = 0 then .fin neg f
  else .fin neg ((2 ^ 23 + f) * 2 ^ (e - 1))

/-- The magnitude `num / den` (in units) rounded to 24 significant bits, ties to even: the units are
counted in steps of `2^drop`, where `drop` is how many bits the whole part has above 24. -/
def roundMag (num den : Nat) : Nat :=
  let drop := Nat.log2 (num / den) + 1 - 24
  let step := den * 2 ^ drop
  let q := num / step
  let r := num % step
  let up := if step < 2 * r ∨ (2 * r = step ∧ q % 2 = 1) then 1 else 0
  (q + up) * 2 ^ drop

/-- Rounds the exact value ±`num / den` units to binary32. -/
def F32.round (neg : Bool) (num den : Nat) : F32 :=
  let m := roundMag num den
  if f32Limit ≤ m then .inf neg else .fin neg m

/-- `f32_of_s32(i)` (R211). -/
def F32.ofInt (i : Int) : F32 := F32.round (decide (i < 0)) (i.natAbs * f32One) 1

/-- The exact value of a finite number, in units of 2^-149. -/
def signed (neg : Bool) (mag : Nat) : Int := if neg then -(mag : Int) else mag

/-- `f32_sub` (R211). An exact zero difference is +0, but for (−0) − (+0). -/
def F32.sub : F32 → F32 → F32
  | .nan, _ => .nan
  | _, .nan => .nan
  | .inf a, .inf b => if a = b then .nan else .inf a
  | .inf a, .fin _ _ => .inf a
  | .fin _ _, .inf b => .inf (!b)
  | .fin a m, .fin b n =>
    let d := signed a m - signed b n
    if d = 0 then .fin (a && !b) 0 else F32.round (decide (d < 0)) d.natAbs 1

/-- `f32_mul` (R211). -/
def F32.mul : F32 → F32 → F32
  | .nan, _ => .nan
  | _, .nan => .nan
  | .inf a, .inf b => .inf (a != b)
  | .inf a, .fin b n => if n = 0 then .nan else .inf (a != b)
  | .fin a m, .inf b => if m = 0 then .nan else .inf (a != b)
  | .fin a m, .fin b n => F32.round (a != b) (m * n) f32One

/-- `trunc(y)`: the integer nearest y toward zero, exactly (R211); none for NaN and ±Inf. -/
def F32.trunc : F32 → Option Int
  | .nan => none
  | .inf _ => none
  | .fin neg mag => some (signed neg (mag / f32One))

/-- `1000.0`, exact in binary32 (R211). -/
def f32Thousand : F32 := .fin false (1000 * f32One)

/-- `trunc(x) ∈ [−2^31, 2^31 − 1]` (R210). -/
def inS32 (i : Int) : Bool := decide (-2147483648 ≤ i) && decide (i ≤ 2147483647)

/-- `F = |trunc(f32_mul(f32_sub(x, f32_of_s32(I)), 1000.0))|` (R210). The product is finite for the
finite `x` this is applied to (R212). -/
def fraction (x : F32) (i : Int) : Nat :=
  match (F32.mul (F32.sub x (F32.ofInt i)) f32Thousand).trunc with
  | some t => t.natAbs
  | none => 0

/-- The integer part and the three-digit fraction of WRITE_FLOAT, or none for an input out of range
(R210, R215). -/
def floatParts (x : Word32) : Option (Int × Nat) :=
  match (F32.ofBits x).trunc with
  | none => none
  | some i => if inS32 i then some (i, fraction (F32.ofBits x) i) else none

/-- WRITE_FLOAT's characters: the integer part, '.', padding zeros and the fraction (R210, R213). -/
def floatChars (i : Int) (f : Nat) : List Byte :=
  decChars i ++ [pointChar] ++ (if f < 100 then [dchar 0] else []) ++ (if f < 10 then [dchar 0] else [])
    ++ decChars f

end Sys2Proof.Machine
end

