-- ==== Sys2Proof/Machine/Encoders.lean ====
section
/-!
DEFINITION. The encoders (spec/43_encoders.md): each reaches the wire only through `emit_char` (R189).
-/

namespace Sys2Proof.Machine

/-- WRITE_STR (R190). -/
def execWriteStr (ref : Word16) (s : State) : Host.Outcome State Fault Refusal :=
  .next (s.acceptChars 0x09#8 (stringAt s ref).1 (stringAt s ref).2)

/-- WRITE_DEC of an s32 (R193, R196). -/
def execWriteDec (v : Word32) (s : State) : Host.Outcome State Fault Refusal :=
  .next (s.acceptChars 0x0A#8 (decChars v.toInt) .nothing)

/-- WRITE_DEC4 of a u32 (R197). -/
def execWriteDec4 (v : Word32) (s : State) : Host.Outcome State Fault Refusal :=
  .next (s.acceptChars 0x0B#8 (dec4Chars v.toNat) .nothing)

/-- WRITE_BIN (R200). -/
def execWriteBin (v : Byte) (s : State) : Host.Outcome State Fault Refusal :=
  .next (s.acceptChars 0x0C#8 (binChars v) .nothing)

/-- WRITE_BIN_SHORT (R203): an all-zero operand emits nothing. -/
def execWriteBinShort (v : Byte) (s : State) : Host.Outcome State Fault Refusal :=
  .next (s.acceptChars 0x0D#8 (binShortChars v) .nothing)

/-- WRITE_HEX (R206). -/
def execWriteHex (v : Byte) (s : State) : Host.Outcome State Fault Refusal :=
  .next (s.acceptChars 0x0E#8 (hexChars v) .nothing)

/-- WRITE_FLOAT (R210): an input out of range raises FloatOutOfRange and emits nothing (R215). -/
def execWriteFloat (x : Word32) (s : State) : Host.Outcome State Fault Refusal :=
  match floatParts x with
  | none => .next ((s.raise (.floatOutOfRange x)).accept [] .nothing)
  | some p => .next (s.acceptChars 0x0F#8 (floatChars p.1 p.2) .nothing)

end Sys2Proof.Machine
end

