-- ==== Sys2Proof/Machine/Init.lean ====
section
/-!
DEFINITION. INIT, the Initialization Sequencer (spec/41_init.md).
-/

namespace Sys2Proof.Machine

/-- Steps 1 to 7 of INIT, in their strict order (R140-R148). -/
def initEvents (c : Config) : List Event :=
  allLines.map (fun l => .dir l .output)
    ++ [.waitMs c.tPowerMs]
    ++ hpwEvents (c.initNibble.setWidth 8) ++ pulse c
    ++ commandEvents c c.cmdFunctionSet ++ [.waitUs c.tFsetUs]
    ++ commandEvents c c.cmdDisplayCtrl ++ [.waitUs c.tDctlUs]
    ++ commandEvents c c.cmdClear ++ [.waitMs c.tClearMs]
    ++ commandEvents c c.cmdEntryMode

/-- INIT (R140): `ready <- 1` after the last event (R147). It never raises PreInitTransport (R232). -/
def execInit (s : State) : Host.Outcome State Fault Refusal :=
  .next (s.accept (initEvents s.cfg) .sessionReady)

end Sys2Proof.Machine
end

