-- ==== Sys2Proof/Machine/Reserved.lean ====
section
/-!
DEFINITION. The five RESERVED rows (spec/30_encoding.md R93): the mark ReservedOp with the op code
(spec/60_exceptions.md R231, R237), no event, and the block is ready for the next request (R240).
-/

namespace Sys2Proof.Machine

/-- op = 0x00. -/
def execReserved00 (s : State) : Host.Outcome State Fault Refusal := .next (s.refuseReserved 0x00#8)

/-- op in 0x10..0x1F. -/
def execReserved10 (op : Byte) (s : State) : Host.Outcome State Fault Refusal :=
  .next (s.refuseReserved op)

/-- op in 0x20..0x3F. -/
def execReserved20 (op : Byte) (s : State) : Host.Outcome State Fault Refusal :=
  .next (s.refuseReserved op)

/-- op in 0x40..0x7F. -/
def execReserved40 (op : Byte) (s : State) : Host.Outcome State Fault Refusal :=
  .next (s.refuseReserved op)

/-- op in 0x80..0xFF. -/
def execReserved80 (op : Byte) (s : State) : Host.Outcome State Fault Refusal :=
  .next (s.refuseReserved op)

end Sys2Proof.Machine
end

