-- ==== Sys2Proof/Machine/Transport.lean ====
section
/-!
DEFINITION. HPW, SEND_CMD and SEND_CHAR (spec/40_transport.md).
-/

namespace Sys2Proof.Machine

/-- HPW (R120): no `ready` check and no pulse. -/
def execHpw (v : Byte) (s : State) : Host.Outcome State Fault Refusal :=
  .next (s.accept (hpwEvents v) .nothing)

/-- SEND_CMD (R124). -/
def execSendCmd (b : Byte) (s : State) : Host.Outcome State Fault Refusal :=
  .next (s.acceptTransports 0x02#8 (commandEvents s.cfg b) .nothing)

/-- SEND_CHAR (R125). -/
def execSendChar (b : Byte) (s : State) : Host.Outcome State Fault Refusal :=
  .next (s.acceptTransports 0x03#8 (charEvents s.cfg b) .nothing)

end Sys2Proof.Machine
end

