-- ==== Sys2Proof/Machine/Receiver.lean ====
section
/-!
DEFINITION. The receiver reference model (spec/20_memory.md R59-R67): what a wait, a latch and each
wire instruction do to the receiver's state. Every function here is pure; the meanings of
Machine/Wire.lean apply them to the state's receiver.
-/

namespace Sys2Proof.Machine

/-- The nibble on D7..D4 (R61). -/
def sampleNibble (lvl : Lines Level) : Nibble :=
  BitVec.ofBool lvl.d7 ++ (BitVec.ofBool lvl.d6 ++ (BitVec.ofBool lvl.d5 ++ BitVec.ofBool lvl.d4))

/-- The wire word `rs ∥ b` of a delivered byte, from its two nibbles (R63, R95). -/
def wireWord (rs : Level) (hi lo : Nibble) : WireWord := BitVec.ofBool rs ++ (hi ++ lo)

/-- A wait adds its lower bound to `gap` (R66); in Unknown every field reads ⊥ and stays so (R67). -/
def Receiver.wait (us : Nat) (r : Receiver) : Receiver :=
  match r.rmode with
  | .unknown => r
  | .detect8 => { r with gap := r.gap + us }
  | .four => { r with gap := r.gap + us }

/-- The busy check fails: the instruction may be lost (R66). -/
def Receiver.busy (r : Receiver) : Bool := decide (r.gap < r.need)

/-- A latch in Detect8 mode (R62): the instruction the nibble is, or Unknown. -/
def Receiver.latchDetect8 (c : Config) (rs : Level) (n : Nibble) (r : Receiver) : Receiver × Option Instr :=
  if r.busy then (Receiver.lost, none)
  else match decodeNibbleFor c.initNibble (BitVec.ofBool rs ++ n) with
    | .ok i => (r, some i)
    | .error _ => (Receiver.lost, none)

/-- The first latch of a byte in Four mode (R63). RS is held whatever it is. R271 says in words that a
second INIT with RS left high makes the receiver Unknown "at that latch" of step 3; R63, R272 and U20
lose a receiver in Four mode at step 4's first latch, where RS differs from the held one. DESIGN CHOICE
(log entry 27): R63 is followed, and R271's sentence is read of Detect8. -/
def Receiver.latchHi (rs : Level) (n : Nibble) (r : Receiver) : Receiver :=
  if r.busy then Receiver.lost
  else { r with hold := some n, holdRs := some rs, phase := .lo }

/-- The second latch of a byte in Four mode (R63): the instruction to deliver, with `phase <- Hi` and
`gap <- 0` done, or Unknown where RS changed or the word has no modelled meaning (R64). -/
def Receiver.latchLo (rs : Level) (n : Nibble) (r : Receiver) : Receiver × Option Instr :=
  match r.hold, r.holdRs with
  | some h, some hrs =>
    if rs = hrs then
      match decodeWire (wireWord rs h n) with
      | .ok i => ({ r with phase := .hi, gap := 0 }, some i)
      | .error _ => (Receiver.lost, none)
    else (Receiver.lost, none)
  | _, _ => (Receiver.lost, none)

/-- A latch with RS at `rs` and the nibble `n` (R61-R63): the receiver after it, and the instruction
that the latch completes, if any, for the receiver to execute. -/
def Receiver.latch (c : Config) (rs : Level) (n : Nibble) (r : Receiver) : Receiver × Option Instr :=
  match r.rmode with
  | .unknown => (r, none)
  | .detect8 => r.latchDetect8 c rs n
  | .four =>
    match r.phase with
    | .hi => (r.latchHi rs n, none)
    | .lo => r.latchLo rs n

/-- `deliver`: sets `need` to the class's execution time and applies the effect (R63). A byte is
delivered in Four mode only; in any other mode the word has no modelled meaning (log entry 10). -/
def Receiver.deliver (us : Nat) (effect : Receiver → Receiver) (r : Receiver) : Receiver :=
  match r.rmode with
  | .unknown => r
  | .detect8 => Receiver.lost
  | .four => effect { r with need := us }

/-- Clear display (R64): every DDRAM byte a space, the cursor home, no shift. -/
def Receiver.clearDisplay (r : Receiver) : Receiver :=
  { r with ddram := Memory.fill ddramSize 0x20#8, ac := some 0, target := .ddram, shifted := false }

/-- The address counters from which a cursor shift left is modelled (R64). -/
def canShiftLeft (a : BitVec 7) : Bool :=
  (decide (0x01 ≤ a.toNat) && decide (a.toNat ≤ 0x27)) || (decide (0x41 ≤ a.toNat) && decide (a.toNat ≤ 0x67))

/-- The address counters from which a cursor shift right is modelled (R64). -/
def canShiftRight (a : BitVec 7) : Bool :=
  decide (a.toNat ≤ 0x26) || (decide (0x40 ≤ a.toNat) && decide (a.toNat ≤ 0x66))

/-- The addresses that hold DDRAM data (R50, R65). -/
def hasDdramCell (a : BitVec 7) : Bool :=
  decide (a.toNat ≤ 0x27) || (decide (0x40 ≤ a.toNat) && decide (a.toNat ≤ 0x67))

/-- Cursor shift left (R64): `ac - 1` where that is modelled, else ⊥. -/
def Receiver.cursorLeft (r : Receiver) : Receiver :=
  match r.target, r.ac with
  | .ddram, some a => { r with ac := if canShiftLeft a then some (a - 1) else none }
  | _, _ => { r with ac := none }

/-- Cursor shift right (R64): `ac + 1` where that is modelled, else ⊥. -/
def Receiver.cursorRight (r : Receiver) : Receiver :=
  match r.target, r.ac with
  | .ddram, some a => { r with ac := if canShiftRight a then some (a + 1) else none }
  | _, _ => { r with ac := none }

/-- A data byte stored in DDRAM at `a` (R65). -/
def Receiver.storeDdram (a : BitVec 7) (b : Byte) (r : Receiver) : Receiver :=
  if hasDdramCell a then
    { r with ddram := Memory.put r.ddram a.toNat b
             ac := if a = 0x27#7 ∨ a = 0x67#7 then none else some (a + 1) }
  else Receiver.lost

/-- A data byte stored in CGRAM at `a[5:0]` (R65). -/
def Receiver.storeCgram (a : BitVec 7) (b : Byte) (r : Receiver) : Receiver :=
  { r with cgram := Memory.put r.cgram (a.extractLsb' 0 6).toNat b
           ac := if a.extractLsb' 0 6 = 0x3F#6 then none else some (a + 1) }

/-- A data write (R65): Unknown unless the entry mode is 0x06 and the address counter is known. -/
def Receiver.dataWrite (b : Byte) (r : Receiver) : Receiver :=
  if r.entry = some 0x06#8 then
    match r.ac with
    | none => Receiver.lost
    | some a =>
      match r.target with
      | .ddram => r.storeDdram a b
      | .cgram => r.storeCgram a b
  else Receiver.lost

/-- The lone nibble 0b0010 with rs = 0 in Detect8 mode (R62). In any other mode it is no instruction
(log entry 10). -/
def Receiver.enterFour (us : Nat) (r : Receiver) : Receiver :=
  match r.rmode with
  | .unknown => r
  | .four => Receiver.lost
  | .detect8 => { r with rmode := .four, phase := .hi, need := us, gap := 0 }

/-- Is this event, at these levels, a latch: a falling edge of E (R61)? -/
def isLatch (lvl : Lines Level) (ev : Event) : Bool := decide (ev = .lvl .e false) && lvl.e

/-- What the receiver does on an event, given the levels before it: waits add to `gap`, a falling edge
of E latches, and nothing else is seen (R61, R66). -/
def Receiver.observe (c : Config) (lvl : Lines Level) (ev : Event) (r : Receiver) : Receiver × Option Instr :=
  if isLatch lvl ev then r.latch c lvl.rs (sampleNibble lvl)
  else match ev with
    | .waitMs n => (r.wait (n * 1000), none)
    | .waitUs n => (r.wait n, none)
    | .dir _ _ => (r, none)
    | .lvl _ _ => (r, none)

/-- Applies a function to the state's receiver. -/
def State.mapRx (f : Receiver → Receiver) (s : State) : State := { s with rx := f s.rx }

/-- One event of the block (R22, R25, R27): the receiver observes it at the levels before it, `dir`,
`lvl` and `faults` follow, the trace records it and the sequencer advances by one. Answers also the
wire instruction the event makes the receiver execute, if any. -/
def State.emit (ev : Event) (s : State) : State × Option Instr :=
  let r := s.rx.observe s.cfg s.lvl ev
  (((({ s with rx := r.1 }).gpio ev).record ev).advance, r.2)

end Sys2Proof.Machine
end

