-- ==== Sys2Proof/Machine/Wire.lean ====
section
/-!
DEFINITION. The wire instructions: what the receiver does with a delivered byte (spec/20_memory.md R64,
R65) and with the lone nibble of the mode detection (R62). They touch the receiver alone.
-/

namespace Sys2Proof.Machine

/-- Clear display, of execution-time class `clear` (R64, R66). -/
def execWireClear (s : State) : Host.Outcome State Fault Refusal :=
  .next (s.mapRx (Receiver.deliver s.cfg.execClearUs Receiver.clearDisplay))

/-- Entry mode (R64). -/
def execWireEntryMode (s : State) : Host.Outcome State Fault Refusal :=
  .next (s.mapRx (Receiver.deliver s.cfg.execOtherUs fun r => { r with entry := some 0x06#8 }))

/-- Display control (R64). -/
def execWireDisplayCtrl (s : State) : Host.Outcome State Fault Refusal :=
  .next (s.mapRx (Receiver.deliver s.cfg.execOtherUs fun r => { r with dctl := some 0x0F#8 }))

/-- Cursor shift left (R64). -/
def execWireCursorShiftLeft (s : State) : Host.Outcome State Fault Refusal :=
  .next (s.mapRx (Receiver.deliver s.cfg.execOtherUs Receiver.cursorLeft))

/-- Cursor shift right (R64). -/
def execWireCursorShiftRight (s : State) : Host.Outcome State Fault Refusal :=
  .next (s.mapRx (Receiver.deliver s.cfg.execOtherUs Receiver.cursorRight))

/-- Display shift left (R64). -/
def execWireDisplayShiftLeft (s : State) : Host.Outcome State Fault Refusal :=
  .next (s.mapRx (Receiver.deliver s.cfg.execOtherUs fun r => { r with shifted := true }))

/-- Display shift right (R64). -/
def execWireDisplayShiftRight (s : State) : Host.Outcome State Fault Refusal :=
  .next (s.mapRx (Receiver.deliver s.cfg.execOtherUs fun r => { r with shifted := true }))

/-- Function set (R64). -/
def execWireFunctionSet (s : State) : Host.Outcome State Fault Refusal :=
  .next (s.mapRx (Receiver.deliver s.cfg.execOtherUs fun r => { r with fset := some 0x28#8 }))

/-- Set CGRAM address (R64). -/
def execWireSetCgramAddr (a : BitVec 6) (s : State) : Host.Outcome State Fault Refusal :=
  .next (s.mapRx (Receiver.deliver s.cfg.execOtherUs fun r =>
    { r with ac := some (a.setWidth 7), target := .cgram }))

/-- Set DDRAM address (R64). -/
def execWireSetDdramAddr (a : BitVec 7) (s : State) : Host.Outcome State Fault Refusal :=
  .next (s.mapRx (Receiver.deliver s.cfg.execOtherUs fun r => { r with ac := some a, target := .ddram }))

/-- A data write (R65). -/
def execWireData (b : Byte) (s : State) : Host.Outcome State Fault Refusal :=
  .next (s.mapRx (Receiver.deliver s.cfg.execDataUs (Receiver.dataWrite b)))

/-- The lone nibble of the mode detection (R62). -/
def execWireInitNibble (s : State) : Host.Outcome State Fault Refusal :=
  .next (s.mapRx (Receiver.enterFour s.cfg.execOtherUs))

end Sys2Proof.Machine
end

