-- ==== Sys2Proof/Machine/Dispatch.lean ====
section
/-!
DEFINITION. One arm for each instruction, each one call of its meaning.
-/

namespace Sys2Proof.Machine

def exec (i : Instr) (s : State) : Host.Outcome State Fault Refusal :=
  match i with
  | .init => Sys2Proof.Machine.execInit s
  | .sendCmd b => Sys2Proof.Machine.execSendCmd b s
  | .sendChar b => Sys2Proof.Machine.execSendChar b s
  | .hpw v => Sys2Proof.Machine.execHpw v s
  | .goTo line cell => Sys2Proof.Machine.execGoTo line cell s
  | .goToClear line cell count => Sys2Proof.Machine.execGoToClear line cell count s
  | .createChar slot bitmap => Sys2Proof.Machine.execCreateChar slot bitmap s
  | .shift dir kind => Sys2Proof.Machine.execShift dir kind s
  | .writeStr ref => Sys2Proof.Machine.execWriteStr ref s
  | .writeDec v => Sys2Proof.Machine.execWriteDec v s
  | .writeDec4 v => Sys2Proof.Machine.execWriteDec4 v s
  | .writeBin v => Sys2Proof.Machine.execWriteBin v s
  | .writeBinShort v => Sys2Proof.Machine.execWriteBinShort v s
  | .writeHex v => Sys2Proof.Machine.execWriteHex v s
  | .writeFloat x => Sys2Proof.Machine.execWriteFloat x s
  | .reserved00 => Sys2Proof.Machine.execReserved00 s
  | .reserved10 op => Sys2Proof.Machine.execReserved10 op s
  | .reserved20 op => Sys2Proof.Machine.execReserved20 op s
  | .reserved40 op => Sys2Proof.Machine.execReserved40 op s
  | .reserved80 op => Sys2Proof.Machine.execReserved80 op s
  | .wireClear => Sys2Proof.Machine.execWireClear s
  | .wireEntryMode => Sys2Proof.Machine.execWireEntryMode s
  | .wireDisplayCtrl => Sys2Proof.Machine.execWireDisplayCtrl s
  | .wireCursorShiftLeft => Sys2Proof.Machine.execWireCursorShiftLeft s
  | .wireCursorShiftRight => Sys2Proof.Machine.execWireCursorShiftRight s
  | .wireDisplayShiftLeft => Sys2Proof.Machine.execWireDisplayShiftLeft s
  | .wireDisplayShiftRight => Sys2Proof.Machine.execWireDisplayShiftRight s
  | .wireFunctionSet => Sys2Proof.Machine.execWireFunctionSet s
  | .wireSetCgramAddr a => Sys2Proof.Machine.execWireSetCgramAddr a s
  | .wireSetDdramAddr a => Sys2Proof.Machine.execWireSetDdramAddr a s
  | .wireData b => Sys2Proof.Machine.execWireData b s
  | .wireInitNibble => Sys2Proof.Machine.execWireInitNibble s

end Sys2Proof.Machine
end

