-- ==== Sys2Proof/Machine/Sequencer.lean ====
section
/-!
DEFINITION. The sequencer (spec/10_state.md R27): in Idle it accepts the next request, in Running it
emits the next event, and where that event is a latch that completes a byte the receiver executes it.
Also the big-step reading of the same rule, and what `withFetchWord` sets.
-/

namespace Sys2Proof.Machine

/-- Applies a function to the next state of an outcome. -/
def onNext (f : State → State) (o : Host.Outcome State Fault Refusal) :
    Host.Outcome State Fault Refusal :=
  match o with
  | .next s => .next (f s)
  | .fault r => .fault r
  | .refused r => .refused r

/-- The receiver executes the wire instruction a latch completed, if any. -/
def execDelivered (i : Option Instr) (s : State) : Host.Outcome State Fault Refusal :=
  match i with
  | none => .next s
  | some i => exec i s

/-- One step in Running: the event, what the receiver makes of it, and the end of the request if this
was its last event (R27; log entry 7). -/
def stepEvent (ev : Event) (s : State) : Host.Outcome State Fault Refusal :=
  onNext State.settle (execDelivered (s.emit ev).2 (s.emit ev).1)

/-- One step in Idle (R27, R28): accepts the next request. With none issued the block waits; bytes
that end inside a record are no request. -/
def stepIdle (s : State) : Host.Outcome State Fault Refusal :=
  match decodeRequest s.input with
  | .ok (i, rest) => exec i { s with input := rest }
  | .error (.truncatedRequest op) => .refused (.truncatedRequest op)
  | .error _ => .next s

/-- One step of the sequencer. The model has no run with an ill-formed PINMAP (R238). -/
def stepSequencer (s : State) : Host.Outcome State Fault Refusal :=
  if PinMap.wellFormed s.cfg.pinmap then
    match s.seq with
    | .idle => stepIdle s
    | .running es i _ =>
      match es[i]? with
      | some ev => stepEvent ev s
      | none => .next s.settle
  else .refused .configInvalid

/-- The big-step reading of R27: the events of a list, one after the other. -/
def runEvents : List Event → State → Host.Outcome State Fault Refusal
  | [], s => .next s
  | ev :: rest, s =>
    match stepEvent ev s with
    | .next t => runEvents rest t
    | .fault r => .fault r
    | .refused r => .refused r

/-- The bits of a nibble on D7..D4, with RS at `rs` and E high: the levels just before a latch. -/
def latchLevels (rs : Level) (n : Nibble) : Lines Level :=
  { rs := rs, e := true, d4 := n.getLsbD 0, d5 := n.getLsbD 1, d6 := n.getLsbD 2, d7 := n.getLsbD 3 }

/-- The state whose next event is the falling edge of E that latches `rs ∥ n`. -/
def State.beforeLatch (rs : Level) (n : Nibble) (s : State) : State :=
  { s with lvl := latchLevels rs n, seq := .running [.lvl .e false] 0 .nothing }

/-- Places an instruction where the very next step runs it (log entry 13): a request at the head of
the issued bytes with the sequencer Idle; a wire word as the byte whose second latch comes next in
Four mode; the lone nibble as the latch that comes next in Detect8 mode with the wait over, the table's
word standing for the machine's own INIT_NIBBLE. -/
def State.place (c : Code) (s : State) : State :=
  match c with
  | .request bs => { s with seq := .idle, input := bs ++ s.input }
  | .wire w =>
    { s.beforeLatch (w.getLsbD 8) (w.extractLsb' 0 4) with
      rx := { s.rx with rmode := .four, phase := .lo, hold := some (w.extractLsb' 4 4)
                        holdRs := some (w.getLsbD 8) } }
  | .nibble n =>
    { s.beforeLatch (n.getLsbD 4) (if n = 0b00010#5 then s.cfg.initNibble else n.extractLsb' 0 4) with
      rx := { s.rx with rmode := .detect8, gap := s.rx.need } }

end Sys2Proof.Machine
end

