-- ==== Sys2Proof/Machine/Step.lean ====
section
/-!
DEFINITION. The machine's step (spec/10_state.md R27), and the state in which the next step runs a
given word of the opcode table.
-/

namespace Sys2Proof.Machine

/-- One step: a request accepted, an event emitted, or waiting for a request. -/
def step (s : State) : Host.Outcome State Fault Refusal := stepSequencer s

/-- `s` with the instruction of `nbits` bits `w`, as spec/opcode_table.json numbers them, placed where
`step` runs it next (log entry 13). -/
def State.withFetchWord (s : State) (nbits w : Nat) : State := s.place (tableCode nbits w)

end Sys2Proof.Machine
end

