-- ==== Sys2Proof/Machine/Asm.lean ====
section
/-!
DEFINITION. The spec's request notation (spec/30_encoding.md R103) and its pseudo-requests (R104), as
abstract syntax: one constructor for each form of a line. A numeric operand stands as the value it
denotes; the alternatives the notation spells differently ('<c>', LEFT, "<text>", a decimal literal)
stand as they are written.
-/

namespace Sys2Proof.Machine

/-- `<b>` or `'<c>'`. -/
inductive AsmChar where
  | code (b : Byte)
  | char (c : Char)
deriving DecidableEq, Repr

/-- `LEFT|RIGHT|<dir>`: LEFT = 0, RIGHT = 1. -/
inductive AsmDir where
  | left | right | num (dir : Byte)
deriving DecidableEq, Repr

/-- `CURSOR|DISPLAY|<kind>`: CURSOR = 0, DISPLAY = 1. -/
inductive AsmKind where
  | cursor | display | num (kind : Byte)
deriving DecidableEq, Repr

/-- `<ref> | "<text>"`. -/
inductive AsmString where
  | ref (a : Word16)
  | text (t : List Char)
deriving DecidableEq, Repr

/-- A binary32 literal: ±`num / den` to be rounded, an infinity, a NaN, or the 32 bits themselves (as
spec/95_test_vectors.md writes them). -/
inductive AsmFloat where
  | ratio (neg : Bool) (num den : Nat)
  | inf (neg : Bool)
  | nan
  | bits (x : Word32)
deriving DecidableEq, Repr

/-- One line of the notation. -/
inductive AsmLine where
  | init
  | sendCmd (b : Byte)
  | sendChar (b : AsmChar)
  | hpw (v : Byte)
  | goTo (line cell : Byte)
  | goToClear (line cell count : Byte)
  | createChar (slot : Byte) (bitmap : Bitmap)
  | shift (dir : AsmDir) (kind : AsmKind)
  | writeStr (t : AsmString)
  | writeDec (v : Int)
  | writeDec4 (v : Nat)
  | writeBin (v : Byte)
  | writeBinShort (v : Byte)
  | writeHex (v : Byte)
  | writeFloat (x : AsmFloat)
  | putc (c : Char)
  | setDdram (a : BitVec 7)
  | setCgram (a : BitVec 6)
  | clear
  | homeL1
deriving DecidableEq, Repr

/-- The code of a quoted character: its ASCII code (R8). DESIGN CHOICE (log entry 25): R8 and R104 give
no code to a character beyond ASCII, and the model takes its code point mod 256. -/
def asciiCode (c : Char) : Byte := BitVec.ofNat 8 c.toNat

def AsmChar.byte : AsmChar → Byte
  | .code b => b
  | .char c => asciiCode c

def AsmDir.byte : AsmDir → Byte
  | .left => 0
  | .right => 1
  | .num d => d

def AsmKind.byte : AsmKind → Byte
  | .cursor => 0
  | .display => 1
  | .num k => k

/-- The 32 bits of a value. NaN has many: this gives the quiet one of vector T-FLT-32. -/
def F32.toBits (x : F32) : Word32 :=
  match x with
  | .nan => 0x7FC00000#32
  | .inf neg => (if neg then 0x80000000#32 else 0) + 0x7F800000#32
  | .fin neg mag =>
    let e := if mag < 2 ^ 23 then 0 else Nat.log2 mag - 22
    let f := if mag < 2 ^ 23 then mag else mag / 2 ^ (e - 1) - 2 ^ 23
    (if neg then 0x80000000#32 else 0) + BitVec.ofNat 32 (e * 2 ^ 23 + f)

/-- A binary32 literal ±`num / den`, rounded to nearest (R103). -/
def floatLiteral (neg : Bool) (num den : Nat) : Word32 := (F32.round neg (num * f32One) den).toBits

def AsmFloat.bits32 : AsmFloat → Word32
  | .ratio neg num den => floatLiteral neg num den
  | .inf neg => F32.toBits (.inf neg)
  | .nan => F32.toBits .nan
  | .bits x => x

/-- The address a string operand names; a text is placed at `place`. -/
def AsmString.address (place : Word16) : AsmString → Word16
  | .ref a => a
  | .text _ => place

/-- The request a line stands for (R103, R104); a text it holds is placed at `place`. -/
def AsmLine.request (place : Word16) : AsmLine → Instr
  | .init => .init
  | .sendCmd b => .sendCmd b
  | .sendChar b => .sendChar b.byte
  | .hpw v => .hpw v
  | .goTo line cell => .goTo line cell
  | .goToClear line cell count => .goToClear line cell count
  | .createChar slot bitmap => .createChar slot bitmap
  | .shift dir kind => .shift dir.byte kind.byte
  | .writeStr t => .writeStr (t.address place)
  | .writeDec v => .writeDec (BitVec.ofInt 32 v)
  | .writeDec4 v => .writeDec4 (BitVec.ofNat 32 v)
  | .writeBin v => .writeBin v
  | .writeBinShort v => .writeBinShort v
  | .writeHex v => .writeHex v
  | .writeFloat x => .writeFloat x.bits32
  | .putc c => .sendChar (asciiCode c)
  | .setDdram a => .sendCmd (1#1 ++ a)
  | .setCgram a => .sendCmd (0b01#2 ++ a)
  | .clear => .sendCmd 0x01#8
  | .homeL1 => .goTo 1#8 0#8

/-- The bytes a line places in host memory: a text and its NUL (R103). -/
def AsmLine.text : AsmLine → List Byte
  | .writeStr (.text t) => t.map asciiCode ++ [0x00#8]
  | _ => []

/-- The host issues the request of a line, its text placed at `place` first. -/
def State.issueLine (place : Word16) (line : AsmLine) (s : State) : State :=
  (s.poke place.toNat line.text).issue (line.request place)

end Sys2Proof.Machine
end

