-- ==== Sys2Proof/Machine/AsmText.lean ====
section
/-!
DEFINITION. The text of the spec's request notation (spec/30_encoding.md R103, R104): one request per
line, read into the abstract syntax of Machine/Asm.lean. A text is a list of characters. A line that is
no form of the notation, or whose number is outside its operand's type, reads as nothing.
-/

namespace Sys2Proof.Machine

/-- The words of a line. -/
inductive Token where
  | word (cs : List Char)
  | int (neg : Bool) (n : Nat)
  | hex (n : Nat)
  | ratio (neg : Bool) (num den : Nat)
  | char (c : Char)
  | text (cs : List Char)
  | comma
  | leftBrace
  | rightBrace
deriving DecidableEq, Repr

def isDigit (c : Char) : Bool := decide (48 ≤ c.toNat) && decide (c.toNat ≤ 57)

def isWordChar (c : Char) : Bool :=
  isDigit c || (decide (65 ≤ c.toNat) && decide (c.toNat ≤ 90)) ||
    (decide (97 ≤ c.toNat) && decide (c.toNat ≤ 122)) || c == '_'

/-- The value of a hexadecimal digit; other characters count as 0. -/
def digitValue (c : Char) : Nat :=
  if isDigit c then c.toNat - 48
  else if 65 ≤ c.toNat ∧ c.toNat ≤ 70 then c.toNat - 55
  else if 97 ≤ c.toNat ∧ c.toNat ≤ 102 then c.toNat - 87
  else 0

def isHexDigit (c : Char) : Bool :=
  isDigit c || (decide (65 ≤ c.toNat) && decide (c.toNat ≤ 70)) ||
    (decide (97 ≤ c.toNat) && decide (c.toNat ≤ 102))

def numeral (base : Nat) (cs : List Char) : Nat := cs.foldl (fun n c => n * base + digitValue c) 0

/-- Scales ±`num / den` by a power of ten. -/
def scaled (neg : Bool) (num den : Nat) (negExp : Bool) (e : Nat) : Token :=
  if negExp then .ratio neg num (den * 10 ^ e) else .ratio neg (num * 10 ^ e) den

/-- The exponent of a decimal literal, if it has one. -/
def lexExponent (neg : Bool) (num den : Nat) (plain : Token) : List Char → Token × List Char
  | 'e' :: '-' :: cs =>
    (scaled neg num den true (numeral 10 (cs.takeWhile isDigit)), cs.dropWhile isDigit)
  | 'e' :: '+' :: cs =>
    (scaled neg num den false (numeral 10 (cs.takeWhile isDigit)), cs.dropWhile isDigit)
  | 'e' :: cs =>
    (scaled neg num den false (numeral 10 (cs.takeWhile isDigit)), cs.dropWhile isDigit)
  | cs => (plain, cs)

/-- A decimal number that starts with a digit. -/
def lexDecimal (neg : Bool) (cs : List Char) : Token × List Char :=
  let whole := cs.takeWhile isDigit
  match cs.dropWhile isDigit with
  | '.' :: rest =>
    let frac := rest.takeWhile isDigit
    let num := numeral 10 (whole ++ frac)
    let den := 10 ^ frac.length
    lexExponent neg num den (.ratio neg num den) (rest.dropWhile isDigit)
  | rest => lexExponent neg (numeral 10 whole) 1 (.int neg (numeral 10 whole)) rest

/-- The next token of a text that starts with neither a space nor a comment. -/
def lexOne : List Char → Option (Token × List Char)
  | [] => none
  | ',' :: cs => some (.comma, cs)
  | '\'' :: c :: '\'' :: cs => some (.char c, cs)
  | '"' :: cs =>
    match cs.dropWhile (fun c => c != '"') with
    | _ :: rest => some (.text (cs.takeWhile fun c => c != '"'), rest)
    | [] => none
  | '0' :: 'x' :: cs => some (.hex (numeral 16 (cs.takeWhile isHexDigit)), cs.dropWhile isHexDigit)
  | '-' :: c :: cs => if isDigit c then some (lexDecimal true (c :: cs)) else none
  | c :: cs =>
    if c.toNat = 123 then some (.leftBrace, cs)
    else if c.toNat = 125 then some (.rightBrace, cs)
    else if isDigit c then some (lexDecimal false (c :: cs))
    else if isWordChar c then
      some (.word ((c :: cs).takeWhile isWordChar), (c :: cs).dropWhile isWordChar)
    else none

/-- The tokens of a line; a ';' starts a comment. Every token takes at least one character, so the
line's length is enough fuel. -/
def lex : Nat → List Char → Option (List Token)
  | _, [] => some []
  | 0, _ :: _ => none
  | n + 1, c :: cs =>
    if c == ' ' || c.toNat == 9 then lex n cs
    else if c == ';' then some []
    else match lexOne (c :: cs) with
      | none => none
      | some (t, rest) => (lex n rest).map (t :: ·)

/-- The value of a number token that is not negative and below `2^w`. -/
def Token.natBelow (w : Nat) : Token → Option Nat
  | .int false n => if n < 2 ^ w then some n else none
  | .hex n => if n < 2 ^ w then some n else none
  | _ => none

def Token.bits (w : Nat) (t : Token) : Option (BitVec w) := (t.natBelow w).map (BitVec.ofNat w)

/-- An s32 literal. -/
def Token.s32 : Token → Option Int
  | .int neg n =>
    let v := signed neg n
    if inS32 v then some v else none
  | .hex n => if n < 2 ^ 31 then some n else none
  | _ => none

def Token.asmChar (t : Token) : Option AsmChar :=
  match t with
  | .char c => some (.char c)
  | t => (t.bits 8).map .code

def Token.asmDir (t : Token) : Option AsmDir :=
  match t with
  | .word ['L', 'E', 'F', 'T'] => some .left
  | .word ['R', 'I', 'G', 'H', 'T'] => some .right
  | t => (t.bits 8).map .num

def Token.asmKind (t : Token) : Option AsmKind :=
  match t with
  | .word ['C', 'U', 'R', 'S', 'O', 'R'] => some .cursor
  | .word ['D', 'I', 'S', 'P', 'L', 'A', 'Y'] => some .display
  | t => (t.bits 8).map .num

def Token.asmString (t : Token) : Option AsmString :=
  match t with
  | .text cs => some (.text cs)
  | t => (t.bits 16).map .ref

def Token.asmFloat (t : Token) : Option AsmFloat :=
  match t with
  | .ratio neg num den => some (.ratio neg num den)
  | .int neg n => some (.ratio neg n 1)
  | .word ['N', 'a', 'N'] => some .nan
  | .word ['I', 'n', 'f'] => some (.inf false)
  | t => (t.bits 32).map .bits

/-- `{<b0>, …, <b7>}`, without its braces. -/
def bitmapOf : List Byte → Option Bitmap
  | [b0, b1, b2, b3, b4, b5, b6, b7] => some ⟨b0, b1, b2, b3, b4, b5, b6, b7⟩
  | _ => none

/-- The bytes of a list of numbers with a comma between each two. -/
def byteList : List Token → Option (List Byte)
  | [] => some []
  | [t] => (t.bits 8).map fun b => [b]
  | t :: .comma :: rest =>
    match t.bits 8, byteList rest with
    | some b, some bs => some (b :: bs)
    | _, _ => none
  | _ => none

/-- A line with no operand. -/
def parse0 (mnemonic : List Char) : Option AsmLine :=
  match mnemonic with
  | ['I', 'N', 'I', 'T'] => some .init
  | ['C', 'L', 'E', 'A', 'R'] => some .clear
  | ['H', 'O', 'M', 'E', '_', 'L', '1'] => some .homeL1
  | _ => none

/-- A line with one operand. -/
def parse1 (mnemonic : List Char) (t : Token) : Option AsmLine :=
  match mnemonic with
  | ['S', 'E', 'N', 'D', '_', 'C', 'M', 'D'] => (t.bits 8).map .sendCmd
  | ['S', 'E', 'N', 'D', '_', 'C', 'H', 'A', 'R'] => t.asmChar.map .sendChar
  | ['H', 'P', 'W'] => (t.bits 8).map .hpw
  | ['W', 'R', 'I', 'T', 'E', '_', 'S', 'T', 'R'] => t.asmString.map .writeStr
  | ['W', 'R', 'I', 'T', 'E', '_', 'D', 'E', 'C'] => t.s32.map .writeDec
  | ['W', 'R', 'I', 'T', 'E', '_', 'D', 'E', 'C', '4'] => (t.natBelow 32).map .writeDec4
  | ['W', 'R', 'I', 'T', 'E', '_', 'B', 'I', 'N'] => (t.bits 8).map .writeBin
  | ['W', 'R', 'I', 'T', 'E', '_', 'B', 'I', 'N', '_', 'S', 'H', 'O', 'R', 'T'] =>
    (t.bits 8).map .writeBinShort
  | ['W', 'R', 'I', 'T', 'E', '_', 'H', 'E', 'X'] => (t.bits 8).map .writeHex
  | ['W', 'R', 'I', 'T', 'E', '_', 'F', 'L', 'O', 'A', 'T'] => t.asmFloat.map .writeFloat
  | ['P', 'U', 'T', 'C'] =>
    match t with
    | .char c => some (.putc c)
    | _ => none
  | ['S', 'E', 'T', '_', 'D', 'D', 'R', 'A', 'M'] => (t.bits 7).map .setDdram
  | ['S', 'E', 'T', '_', 'C', 'G', 'R', 'A', 'M'] => (t.bits 6).map .setCgram
  | _ => none

/-- A line with two operands. -/
def parse2 (mnemonic : List Char) (t u : Token) : Option AsmLine :=
  match mnemonic with
  | ['G', 'O', 'T', 'O'] =>
    match t.bits 8, u.bits 8 with
    | some line, some cell => some (.goTo line cell)
    | _, _ => none
  | ['S', 'H', 'I', 'F', 'T'] =>
    match t.asmDir, u.asmKind with
    | some dir, some kind => some (.shift dir kind)
    | _, _ => none
  | _ => none

/-- A line with three numeric operands. -/
def parse3 (mnemonic : List Char) (t u v : Token) : Option AsmLine :=
  match mnemonic, t.bits 8, u.bits 8, v.bits 8 with
  | ['G', 'O', 'T', 'O', '_', 'C', 'L', 'E', 'A', 'R'], some line, some cell, some count =>
    some (.goToClear line cell count)
  | _, _, _, _ => none

/-- A line with a slot and a bitmap. -/
def parseGlyph (mnemonic : List Char) (t : Token) (rows : List Token) : Option AsmLine :=
  match mnemonic, t.bits 8, (byteList rows).bind bitmapOf with
  | ['C', 'R', 'E', 'A', 'T', 'E', '_', 'C', 'H', 'A', 'R'], some slot, some bitmap =>
    some (.createChar slot bitmap)
  | _, _, _ => none

/-- A line of the notation from its tokens (R103, R104). -/
def parseTokens : List Token → Option AsmLine
  | [.word m] => parse0 m
  | [.word m, t] => parse1 m t
  | [.word m, t, .comma, u] => parse2 m t u
  | [.word m, t, .comma, u, .comma, v] => parse3 m t u v
  | .word m :: t :: .comma :: .leftBrace :: rest =>
    match rest.getLast? with
    | some .rightBrace => parseGlyph m t rest.dropLast
    | _ => none
  | _ => none

/-- Reads one line of text (R103). -/
def parseLine (cs : List Char) : Option AsmLine := (lex cs.length cs).bind parseTokens

/-- The host issues the request that a line of text names, a text operand placed at `place`; a line
that is none issues nothing. -/
def State.issueText (place : Word16) (cs : List Char) (s : State) : State :=
  match parseLine cs with
  | some line => s.issueLine place line
  | none => s

end Sys2Proof.Machine
end

