-- ==== Sys2Proof/Machine/Replay.lean ====
section
/-!
DEFINITION. The receiver reference as a function of a trace alone: "the receiver reference state
reached by replaying the trace" (spec/60_exceptions.md R251), and the block's state after an event, a
list of events and a whole request, all as pure functions. They give the same as `step` (the
obligations say so), and a trace the block never emits can be judged by them too.
-/

namespace Sys2Proof.Machine

/-- What the receiver does with a wire instruction (spec/20_memory.md R62, R64, R65). A request is not
on the wire and does nothing. -/
def Receiver.execute (c : Config) (i : Instr) (r : Receiver) : Receiver :=
  match i with
  | .wireClear => r.deliver c.execClearUs Receiver.clearDisplay
  | .wireEntryMode => r.deliver c.execOtherUs fun r => { r with entry := some 0x06#8 }
  | .wireDisplayCtrl => r.deliver c.execOtherUs fun r => { r with dctl := some 0x0F#8 }
  | .wireCursorShiftLeft => r.deliver c.execOtherUs Receiver.cursorLeft
  | .wireCursorShiftRight => r.deliver c.execOtherUs Receiver.cursorRight
  | .wireDisplayShiftLeft => r.deliver c.execOtherUs fun r => { r with shifted := true }
  | .wireDisplayShiftRight => r.deliver c.execOtherUs fun r => { r with shifted := true }
  | .wireFunctionSet => r.deliver c.execOtherUs fun r => { r with fset := some 0x28#8 }
  | .wireSetCgramAddr a =>
    r.deliver c.execOtherUs fun r => { r with ac := some (a.setWidth 7), target := .cgram }
  | .wireSetDdramAddr a => r.deliver c.execOtherUs fun r => { r with ac := some a, target := .ddram }
  | .wireData b => r.deliver c.execDataUs (Receiver.dataWrite b)
  | .wireInitNibble => r.enterFour c.execOtherUs
  | .init | .sendCmd _ | .sendChar _ | .hpw _ | .goTo _ _ | .goToClear _ _ _ | .createChar _ _
  | .shift _ _ | .writeStr _ | .writeDec _ | .writeDec4 _ | .writeBin _ | .writeBinShort _
  | .writeHex _ | .writeFloat _ | .reserved00 | .reserved10 _ | .reserved20 _ | .reserved40 _
  | .reserved80 _ => r

/-- What the receiver sees: the levels of the six lines, and its own state. -/
structure Bus where
  lvl : Lines Level
  rx : Receiver
deriving DecidableEq, Repr

/-- The levels and the receiver at power-on (spec/70_reset_and_hazards.md R260). -/
def Bus.powerOn (c : Config) : Bus := ⟨(State.powerOn c).lvl, Receiver.powerOn c⟩

/-- The receiver after an event that it observes at the levels `x` (R61-R66). -/
def Receiver.react (c : Config) (x : Lines Level) (ev : Event) (r : Receiver) : Receiver :=
  match r.observe c x ev with
  | (r', none) => r'
  | (r', some i) => r'.execute c i

/-- One event on the bus. -/
def Bus.react (c : Config) (b : Bus) (ev : Event) : Bus := ⟨ev.levels b.lvl, b.rx.react c b.lvl ev⟩

/-- A trace replayed from power-on (R251). -/
def replay (c : Config) (trace : List Event) : Bus := trace.foldl (Bus.react c) (Bus.powerOn c)

/-- The state after one event, as a pure function: registers, trace and receiver; `seq` as it is. -/
def State.react (ev : Event) (s : State) : State :=
  { (s.gpio ev).record ev with rx := s.rx.react s.cfg s.lvl ev }

/-- The state after a list of events. -/
def State.reactAll (es : List Event) (s : State) : State := es.foldl (fun t ev => t.react ev) s

/-- The state at the end of a request with this event list and end write, accepted in `s`, as one
function: the big-step reading of spec/10_state.md R27. -/
def State.served (es : List Event) (w : EndWrite) (s : State) : State := (s.reactAll es).finish w

end Sys2Proof.Machine
end

