-- ==== Sys2Proof/Machine/View.lean ====
section
/-!
DEFINITION. The views that spec/ defines over the state and that no rule of the block reads: what the
display shows (spec/20_memory.md R51-R53, R60, R67, R68), and the interface call each event is
(spec/10_state.md R24).
-/

namespace Sys2Proof.Machine

/-- The call on a consumed interface (R24). -/
inductive Call where
  | setDirection (port : Port) (pin : BitVec 3) (d : PinDir)
  | setLevel (port : Port) (pin : BitVec 3) (v : Level)
  | delayMilliseconds (n : Nat)
  | delayMicroseconds (n : Nat)
deriving DecidableEq, Repr

/-- The call an event makes, through PINMAP (R24, D4). -/
def Event.call (p : PinMap) (ev : Event) : Call :=
  match ev with
  | .dir l d => .setDirection (Lines.get p l).port (Lines.get p l).pin d
  | .lvl l v => .setLevel (Lines.get p l).port (Lines.get p l).pin v
  | .waitMs n => .delayMilliseconds n
  | .waitUs n => .delayMicroseconds n

/-- The 2-bit code of a port: A=0, B=1, C=2, D=3 (R23). -/
def Port.code : Port → BitVec 2
  | .a => 0
  | .b => 1
  | .c => 2
  | .d => 3

/-- The receiver as it may be read: ⊥ once its mode is Unknown (R67). -/
def Receiver.known (r : Receiver) : Option Receiver :=
  match r.rmode with
  | .unknown => none
  | .detect8 => some r
  | .four => some r

/-- The DDRAM address of cell `cell` of line `line` (R51). -/
def cellAddress (c : Config) (line : Byte) (cell : Nat) : Option Nat :=
  (lineBase c line).map fun b => b.toNat + cell

/-- The cursor: `ac` while the target is DDRAM, or ⊥ (R60, R67). -/
def Receiver.cursor (r : Receiver) : Option (BitVec 7) :=
  r.known.bind fun k => match k.target with
    | .ddram => k.ac
    | .cgram => none

/-- The cursor is known to stand at (line, cell) (R60). -/
def Receiver.cursorAt (c : Config) (line : Byte) (cell : Nat) (r : Receiver) : Bool :=
  match r.cursor, cellAddress c line cell with
  | some k, some a => decide (k.toNat = a)
  | _, _ => false

/-- The byte stored in a DDRAM cell, or ⊥ (R59, R67). -/
def Receiver.ddramAt (a : Nat) (r : Receiver) : Option Byte := r.known.bind fun k => Memory.get? k.ddram a

/-- The byte stored at a CGRAM address, or ⊥ (R59, R67). -/
def Receiver.cgramAt (a : Nat) (r : Receiver) : Option Byte := r.known.bind fun k => Memory.get? k.cgram a

/-- The mapping from DDRAM to what is seen holds: Four, display control 0x0F, no display shift (R68). -/
def Receiver.visible (r : Receiver) : Bool :=
  decide (r.rmode = .four ∧ r.dctl = some 0x0F#8 ∧ r.shifted = false)

/-- The character code shown at (line, cell), or ⊥ (R68). -/
def Receiver.shownCode (c : Config) (line : Byte) (cell : Nat) (r : Receiver) : Option Byte :=
  if r.visible ∧ cell < c.displayCols then (cellAddress c line cell).bind r.ddramAt else none

/-- What a character code shows (R53). -/
inductive Glyph where
  /-- The CGRAM glyph of a slot: eight rows of five dots, row 0 on top, bit 4 leftmost; a row is ⊥
  where its byte is (R52). -/
  | custom (slot : Nat) (rows : List (Option (BitVec 5)))
  /-- The ASCII glyph of the code. -/
  | ascii (code : Byte)
  /-- A code whose glyph the spec does not state. -/
  | unstated (code : Byte)
deriving DecidableEq, Repr

/-- The eight rows of a slot, bits 7..5 not displayed (R52). -/
def Receiver.slotRows (slot : Nat) (r : Receiver) : List (Option (BitVec 5)) :=
  (List.range 8).map fun row => (r.cgramAt (8 * slot + row)).map fun b => b.setWidth 5

/-- The glyph of a code: 0x00..0x07 the slots, 0x08..0x0F their aliases, 0x20..0x7D ASCII (R53). -/
def Receiver.glyph (code : Byte) (r : Receiver) : Glyph :=
  if code.toNat < 16 then .custom (code.toNat % 8) (r.slotRows (code.toNat % 8))
  else if 0x20 ≤ code.toNat ∧ code.toNat ≤ 0x7D then .ascii code
  else .unstated code

/-- The glyph shown at (line, cell), or ⊥ (R68, R73). -/
def Receiver.shownGlyph (c : Config) (line : Byte) (cell : Nat) (r : Receiver) : Option Glyph :=
  (r.shownCode c line cell).map fun code => r.glyph code

/-- The DDRAM address at which the blinking cursor is shown: `ac`, with the display control 0x0F,
also after a display shift, which leaves open only what the cells show (R68, G16, U22). -/
def Receiver.shownCursor (r : Receiver) : Option (BitVec 7) :=
  if r.dctl = some 0x0F#8 then r.cursor else none

end Sys2Proof.Machine
end

