-- ==== Sys2Proof/Safety.lean ====
section
/-!
DEFINITION. What a run shows and what counts as a good one, in the terms claims use
(spec/60_exceptions.md R251), and the invariants that rule out states no run reaches.
-/

namespace Sys2Proof.Machine

/-- The observation of a run (R251): the trace, the kinds of fault and of refusal recorded, as sets,
and the receiver. -/
structure Observation where
  trace : List Event
  faults : List FaultKind
  refused : List RefusalKind
  rx : Option Receiver
deriving DecidableEq, Repr

/-- The kinds recorded, each once, in the order of R231, so that the order of recording is not
observable (R239). -/
def State.faultKinds (s : State) : List FaultKind :=
  [.preInitTransport, .levelOnNonOutput, .floatOutOfRange, .stringOutOfBounds].filter fun k => s.hasFault k

def State.refusalKinds (s : State) : List RefusalKind :=
  [.slotOutOfRange, .reservedOp, .configInvalid].filter fun k => s.hasRefusal k

def State.observation (s : State) : Observation :=
  ⟨s.trace, s.faultKinds, s.refusalKinds, s.rx.known⟩

/-- `n` steps of the machine. -/
def runSteps (n : Nat) (s : State) : Host.Outcome State Fault Refusal := Host.Core.run Sys2Proof.core n s

/-- Every issued request has been served (R251). -/
def State.ended (s : State) : Bool := decide (s.seq = .idle) && s.input.isEmpty

/-- No fault and no refusal has been recorded (R251). -/
def State.clean (s : State) : Bool := s.faults.isEmpty && s.refused.isEmpty

/-- The event list in hand, from the event that comes next (R27). -/
def Seq.pending : Seq → List Event
  | .idle => []
  | .running es i _ => es.drop i

/-- Running has an event still to emit: a request with none left is over (R27). -/
def Seq.live : Seq → Bool
  | .idle => true
  | .running es i _ => decide (i < es.length)

/-- The receiver's own consistency: Unknown is the one lost state (R67), and in the Lo phase a nibble
and its RS are held (R63). -/
def Receiver.consistent (r : Receiver) : Bool :=
  decide (r.rmode = .unknown → r = Receiver.lost)
    && decide (r.phase = .lo → r.hold.isSome = true ∧ r.holdRs.isSome = true)

/-- Sticky marks are sets: none is recorded twice (R26). -/
def State.marksDistinct (s : State) : Bool := decide s.faults.Nodup && decide s.refused.Nodup

/-- An event that moves RS, a data line or a direction (R121). -/
def Event.disturbs (ev : Event) : Bool :=
  match ev with
  | .dir _ _ => true
  | .lvl l _ => decide (l ≠ .e)
  | .waitMs _ => false
  | .waitUs _ => false

/-- In an event list that starts with E high or low as `high` says: no RS, data or direction event
stands between a rise of E and the fall that follows it (R121). -/
def stableWhileHigh : Bool → List Event → Bool
  | _, [] => true
  | high, ev :: rest =>
    !(high && ev.disturbs) && stableWhileHigh (if ev = .lvl .e true then true
      else if ev = .lvl .e false then false else high) rest

/-! ### What claims about requests are written with -/

/-- The fifteen events of the transaction `rs ∥ b`, as spec/40_transport.md R123 lists them. -/
def transactionEvents (c : Config) (rs : Level) (b : Byte) : List Event :=
  [.lvl .rs rs,
   .lvl .d4 (b.getLsbD 4), .lvl .d5 (b.getLsbD 5), .lvl .d6 (b.getLsbD 6), .lvl .d7 (b.getLsbD 7),
   .lvl .e true, .waitMs c.tPulseMs, .lvl .e false,
   .lvl .d4 (b.getLsbD 0), .lvl .d5 (b.getLsbD 1), .lvl .d6 (b.getLsbD 2), .lvl .d7 (b.getLsbD 3),
   .lvl .e true, .waitMs c.tPulseMs, .lvl .e false]

/-- One character transaction for each byte. -/
def charTransactions (c : Config) (cs : List Byte) : List Event := cs.flatMap (transactionEvents c true)

/-- INIT's events, as spec/41_init.md R141-R147 list them. -/
def initTransactions (c : Config) : List Event :=
  [.dir .rs .output, .dir .e .output, .dir .d4 .output, .dir .d5 .output, .dir .d6 .output,
   .dir .d7 .output, .waitMs c.tPowerMs,
   .lvl .d4 (c.initNibble.getLsbD 0), .lvl .d5 (c.initNibble.getLsbD 1),
   .lvl .d6 (c.initNibble.getLsbD 2), .lvl .d7 (c.initNibble.getLsbD 3),
   .lvl .e true, .waitMs c.tPulseMs, .lvl .e false]
    ++ transactionEvents c false c.cmdFunctionSet ++ [.waitUs c.tFsetUs]
    ++ transactionEvents c false c.cmdDisplayCtrl ++ [.waitUs c.tDctlUs]
    ++ transactionEvents c false c.cmdClear ++ [.waitMs c.tClearMs]
    ++ transactionEvents c false c.cmdEntryMode

/-- `s` with PreInitTransport recorded if `ready` = 0 (spec/60_exceptions.md R232). -/
def State.preMarked (op : Byte) (s : State) : State :=
  if s.ready then s else s.raise (.preInitTransport op)

/-- `s` Running at the first event of `es`, with no end-of-request write (spec/10_state.md R27). -/
def State.starting (es : List Event) (s : State) : State := { s with seq := .running es 0 .nothing }

/-- A machine that has accepted, as `u`, a request with the level and wait events `es` emits exactly
them, one a step, and is then Idle. Everything the emission changes and leaves alone: the trace gains
`es`; the levels and the receiver follow the events; LevelOnNonOutput is recorded for each line that
is set while it is no output (R233), and the marks `ends` with the end of the request; nothing else
changes. -/
def EmitsMarking (ends : List FaultMark) (es : List Event) (u : State) : Prop :=
  ∃ t, runSteps es.length u = .next t ∧
    t.seq = .idle ∧ t.trace = u.trace ++ es ∧
    t.lvl = es.foldl (fun x ev => ev.levels x) u.lvl ∧
    t.rx = (es.foldl (Bus.react u.cfg) ⟨u.lvl, u.rx⟩).rx ∧
    (∀ m, m ∈ t.faults ↔ m ∈ u.faults ∨ m ∈ ends ∨
      ∃ l v, Event.lvl l v ∈ es ∧ Lines.get u.dir l ≠ .output ∧ m = .levelOnNonOutput l) ∧
    t.cfg = u.cfg ∧ t.ready = u.ready ∧ t.dir = u.dir ∧ t.refused = u.refused ∧
    t.hostMem = u.hostMem ∧ t.input = u.input

/-- The same for a request whose end records no mark. -/
def Emits (es : List Event) (u : State) : Prop := EmitsMarking [] es u

/-- The standard base-10 text of a natural number, by Mathlib's digits: no leading zero, "0" for 0. -/
def natText (n : Nat) : List Byte :=
  if n = 0 then [0x30#8] else (Nat.digits 10 n).reverse.map fun d => 0x30#8 + BitVec.ofNat 8 d

/-- The standard base-10 text of an integer (spec/43_encoders.md R195). -/
def intText (v : Int) : List Byte := if v < 0 then 0x2D#8 :: natText v.natAbs else natText v.natAbs

/-- The receiver pairs nibbles, expects a high one, and is not busy once one more pulse has passed. -/
def Receiver.takesByte (c : Config) (r : Receiver) : Prop :=
  r.rmode = .four ∧ r.phase = .hi ∧ r.need ≤ r.gap + 1000 * c.tPulseMs

/-- The levels and the receiver are what the trace replays to from power-on (spec/60_exceptions.md
R251). -/
def State.replayed (s : State) : Prop := (⟨s.lvl, s.rx⟩ : Bus) = replay s.cfg s.trace

end Sys2Proof.Machine
end

