-- ==== Sys2Proof/Certificates/Slice0/Obligations.lean ====
section
/-!
DEFINITION. The statements for the provers. Each formalises what spec/ says the block, an instruction
or the receiver does; its docstring names the rules.
-/

open Sys2Proof Sys2Proof.Machine

/-! ### Reset, the step and the encodings -/

/-- spec/70_reset_and_hazards.md R260, row by row, from every state with a well-formed PINMAP; then
the block waits in Idle. ⊥ is `none`. -/
def Obligations.PowerCycleSetsTheResetTable : Prop :=
  ∀ s : State, PinMap.wellFormed s.cfg.pinmap = true →
    let t := s.powerCycle
    t.ready = false ∧ (∀ l, Lines.get t.dir l = s.cfg.gpioResetDir) ∧
    (∀ l, Lines.get t.lvl l = s.cfg.gpioResetLevel) ∧
    t.faults = [] ∧ t.refused = [] ∧ t.seq = .idle ∧ t.trace = [] ∧ t.cfg.pinmap = s.cfg.pinmap ∧
    t.rx.rmode = .detect8 ∧ t.rx.phase = .hi ∧ t.rx.hold = none ∧ t.rx.holdRs = none ∧
    t.rx.ac = none ∧ t.rx.target = .ddram ∧ (∀ a, Memory.get? t.rx.ddram a = none) ∧
    (∀ a, Memory.get? t.rx.cgram a = none) ∧ t.rx.fset = none ∧ t.rx.dctl = none ∧
    t.rx.entry = none ∧ t.rx.shifted = false ∧ t.rx.gap = 0 ∧ t.rx.need = s.cfg.powerUpUs ∧
    step t = .next t ∧
    State.reset.cfg.gpioResetDir = .input ∧ State.reset.cfg.gpioResetLevel = false

/-- R261: a block reset returns the block's state to the values of R260 and leaves the receiver its
state. -/
def Obligations.BlockResetKeepsTheReceiver : Prop :=
  ∀ s : State, s.blockReset.rx = s.rx ∧ { s.blockReset with rx := s.powerCycle.rx } = s.powerCycle

/-- In Idle, where the issued bytes begin with a request, the step is `exec` of it with its bytes
taken (spec/10_state.md R27, spec/30_encoding.md R90). -/
def Obligations.IdleStepRunsTheDecodedRequest : Prop :=
  ∀ (s : State) (i : Instr) (rest : List Byte), PinMap.wellFormed s.cfg.pinmap = true → s.seq = .idle →
    decodeRequest s.input = .ok (i, rest) → step s = exec i { s with input := rest }

/-- The falling edge of E that completes a byte in Four mode, or finds INIT_NIBBLE with rs = 0 in Detect8
mode, is `exec` of the wire instruction, after the event's own effects and before the request's end
(spec/20_memory.md R61-R65; spec/10_state.md R27). The latches that hold a nibble or lose the receiver
are in LatchHoldsOrLosesTheReceiver. -/
def Obligations.LatchStepRunsTheDecodedWireWord : Prop :=
  ∀ (s : State) (es : List Event) (k : Nat) (w : EndWrite),
    PinMap.wellFormed s.cfg.pinmap = true → s.seq = .running es k w →
    es[k]? = some (.lvl .e false) → s.lvl.e = true →
    let n : Nibble := BitVec.ofBool s.lvl.d7 ++ (BitVec.ofBool s.lvl.d6 ++
      (BitVec.ofBool s.lvl.d5 ++ BitVec.ofBool s.lvl.d4))
    let t : State := { s with
      lvl := { s.lvl with e := false }
      faults := if s.dir.e = .output then s.faults else insertMark (.levelOnNonOutput .e) s.faults
      trace := s.trace ++ [.lvl .e false]
      seq := .running es (k + 1) w }
    (∀ h i, s.rx.rmode = .four → s.rx.phase = .lo → s.rx.hold = some h →
      s.rx.holdRs = some s.lvl.rs → decodeWire (BitVec.ofBool s.lvl.rs ++ (h ++ n)) = .ok i →
      step s = onNext State.settle (exec i { t with rx := { s.rx with phase := .hi, gap := 0 } })) ∧
    (s.rx.rmode = .detect8 → s.rx.need ≤ s.rx.gap → s.lvl.rs = false → n = s.cfg.initNibble →
      step s = onNext State.settle (exec .wireInitNibble t))

/-- An Idle block with no request issued waits (R260, the sentence after the table); bytes that end
inside a record are no request and are refused by name (the model's choice, log entry 6). -/
def Obligations.IdleStepWithoutARequest : Prop :=
  ∀ s : State, PinMap.wellFormed s.cfg.pinmap = true → s.seq = .idle →
    (s.input = [] → step s = .next s) ∧
    (∀ op, decodeRequest s.input = .error (.truncatedRequest op) → step s = .refused (.truncatedRequest op))

/-- R23, R238: with two lines on one pin "the model has no run", and the refusal is recorded. -/
def Obligations.IllFormedPinmapHasNoRun : Prop :=
  ∀ c : Config, ¬ [c.pinmap.rs, c.pinmap.e, c.pinmap.d4, c.pinmap.d5, c.pinmap.d6, c.pinmap.d7].Nodup →
    (State.powerOn c).refused = [.configInvalid c.pinmap] ∧
    ∀ s : State, s.cfg = c → step s = .refused .configInvalid

/-- Words written out from R91 and R64: each decodes to what it stands for. -/
def Obligations.WrittenOutWordsDecode : Prop :=
  decode (.request [0x01#8]) = .ok .init ∧
  decode (.request [0x05#8, 0x02#8, 0x13#8]) = .ok (.goTo 2#8 19#8) ∧
  decode (.request [0x09#8, 0x00#8, 0x01#8]) = .ok (.writeStr 0x0100#16) ∧
  decode (.request [0x0A#8, 0xD6#8, 0xFF#8, 0xFF#8, 0xFF#8]) = .ok (.writeDec (BitVec.ofInt 32 (-42))) ∧
  decode (.request [0x20#8]) = .ok (.reserved20 0x20#8) ∧
  decode (.wire 0b0_01010_110#9) = .ok (.wireSetCgramAddr 0b010110#6) ∧
  decode (.wire 0b0_1100_0101#9) = .ok (.wireSetDdramAddr 0b1000101#7) ∧
  decode (.wire 0b1_0100_0001#9) = .ok (.wireData 0x41#8) ∧
  decode (.wire 0b0_0010_0010#9) = .error (.unmodelledCommand 0x022#9) ∧
  decode (.nibble 0b00010#5) = .ok .wireInitNibble

/-- Decoding an encoded well-formed instruction gives it back, for every instruction and every value
of every operand. -/
def Obligations.DecodeOfEncodeIsTheInstruction : Prop :=
  ∀ i : Instr, i.wellFormed = true → decode (encode i) = .ok i

/-- Each word and each request record has one meaning: what a decoder reads encodes to the bits it was
read from, and the bytes after a request are left for the next one. -/
def Obligations.DecodedBitsAreTheEncoding : Prop :=
  (∀ (bs rest : List Byte) (i : Instr), decodeRequest bs = .ok (i, rest) →
    i.wellFormed = true ∧ ∃ p, encode i = .request p ∧ bs = p ++ rest) ∧
  (∀ (w : WireWord) (i : Instr), decodeWire w = .ok i → encode i = .wire w) ∧
  (∀ (n : BitVec 5) (i : Instr), decodeNibble n = .ok i → encode i = .nibble n)

/-- R105, R28: requests are straight-line, and the i-th runs i-th. The host issues two requests to an
Idle block with none waiting: the step is the first, and the second's bytes are what waits. -/
def Obligations.IssuedRequestsRunInOrder : Prop :=
  ∀ (s : State) (i j : Instr) (p q : List Byte), PinMap.wellFormed s.cfg.pinmap = true →
    s.seq = .idle → s.input = [] → i.wellFormed = true →
    encode i = .request p → encode j = .request q →
    step (s.issue i) = exec i s ∧ step ((s.issue i).issue j) = exec i { s with input := q }

/-! ### The Half-Port Writer and the transport -/

/-- R120: HPW drives D4..D7 to bits 0..3, ignores bits 4..7, checks no session, and causes no latch. -/
def Obligations.HpwDrivesTheDataLines : Prop :=
  ∀ (v : Byte) (s : State), PinMap.wellFormed s.cfg.pinmap = true → s.seq = .idle →
    let es : List Event := [.lvl .d4 (v.getLsbD 0), .lvl .d5 (v.getLsbD 1), .lvl .d6 (v.getLsbD 2),
      .lvl .d7 (v.getLsbD 3)]
    exec (.hpw v) s = .next (s.starting es) ∧ Emits es (s.starting es) ∧
    (es.foldl (Bus.react s.cfg) ⟨s.lvl, s.rx⟩).rx = s.rx ∧
    exec (.hpw (v &&& 0x0F#8)) s = exec (.hpw v) s

/-- R124, R123: SEND_CMD emits the one transaction (0, b), whatever the byte; the levels it leaves. -/
def Obligations.SendCmdEmitsOneTransaction : Prop :=
  ∀ (b : Byte) (s : State), PinMap.wellFormed s.cfg.pinmap = true → s.seq = .idle →
    let es := transactionEvents s.cfg false b
    exec (.sendCmd b) s = .next ((s.preMarked 0x02#8).starting es) ∧
    Emits es ((s.preMarked 0x02#8).starting es) ∧
    es.foldl (fun x ev => ev.levels x) s.lvl =
      ⟨false, false, b.getLsbD 0, b.getLsbD 1, b.getLsbD 2, b.getLsbD 3⟩

/-- R125, R123: SEND_CHAR emits the one transaction (1, b); the levels it leaves. -/
def Obligations.SendCharEmitsOneTransaction : Prop :=
  ∀ (b : Byte) (s : State), PinMap.wellFormed s.cfg.pinmap = true → s.seq = .idle →
    let es := transactionEvents s.cfg true b
    exec (.sendChar b) s = .next ((s.preMarked 0x03#8).starting es) ∧
    Emits es ((s.preMarked 0x03#8).starting es) ∧
    es.foldl (fun x ev => ev.levels x) s.lvl =
      ⟨true, false, b.getLsbD 0, b.getLsbD 1, b.getLsbD 2, b.getLsbD 3⟩

/-- R126, of the list the primitive `transport` gives: RS once and first, eight data levels, the high
nibble's four first, E rising and falling twice in turn, two waits of T_PULSE_MS, and no other event. -/
def Obligations.TransactionHasItsShape : Prop :=
  ∀ (c : Config) (rs : Level) (b : Byte),
    (transport c rs b).head? = some (.lvl .rs rs) ∧
    ((transport c rs b).filter fun ev => decide (ev = .lvl .rs true ∨ ev = .lvl .rs false)) = [.lvl .rs rs] ∧
    ((transport c rs b).filter fun ev => decide (ev = .lvl .e true ∨ ev = .lvl .e false)) =
      [.lvl .e true, .lvl .e false, .lvl .e true, .lvl .e false] ∧
    ((transport c rs b).filter fun ev => decide (ev = .waitMs c.tPulseMs)) =
      [.waitMs c.tPulseMs, .waitMs c.tPulseMs] ∧
    ((transport c rs b).filter fun ev => [Line.d4, .d5, .d6, .d7].any fun l =>
      decide (ev = .lvl l true ∨ ev = .lvl l false)) =
      [.lvl .d4 (b.getLsbD 4), .lvl .d5 (b.getLsbD 5), .lvl .d6 (b.getLsbD 6), .lvl .d7 (b.getLsbD 7),
       .lvl .d4 (b.getLsbD 0), .lvl .d5 (b.getLsbD 1), .lvl .d6 (b.getLsbD 2), .lvl .d7 (b.getLsbD 3)] ∧
    (transport c rs b).length = 15

/-- spec/20_memory.md R54, R63, R95: seen by the receiver, one transaction is one byte, high nibble
first: a receiver that takes a byte executes the wire word rs ∥ b, and goes Unknown on a word that has
no modelled meaning. Stated of SEND_CMD and SEND_CHAR. That an Unknown receiver is the one state
`Receiver.lost` is the model's choice (log entry 11). -/
def Obligations.TransactionDeliversItsByte : Prop :=
  ∀ (rs : Level) (b : Byte) (s : State), PinMap.wellFormed s.cfg.pinmap = true → s.seq = .idle →
    s.rx.takesByte s.cfg →
    ∃ u t, exec (if rs then .sendChar b else .sendCmd b) s = .next u ∧ runSteps 15 u = .next t ∧
      t.rx = match decodeWire (BitVec.ofBool rs ++ b) with
        | .ok i => Receiver.execute s.cfg i { s.rx with
            phase := .hi, gap := 0, hold := some (b.extractLsb' 4 4), holdRs := some rs }
        | .error _ => Receiver.lost

/-! ### INIT -/

/-- spec/41_init.md R140-R148, R150: INIT's events in their order, 77 of them, with wait lower bounds of
46.09 ms at the values of R6; `ready` becomes 1 with the last one and not before; no fault is
recorded. -/
def Obligations.InitRunsItsStrictSequence : Prop :=
  ∀ s : State, PinMap.wellFormed s.cfg.pinmap = true → s.seq = .idle →
    let es := initTransactions s.cfg
    let u : State := { s with seq := .running es 0 .sessionReady }
    exec .init s = .next u ∧ es.length = 77 ∧
    totalWait es = 1000 * (s.cfg.tPowerMs + 9 * s.cfg.tPulseMs + s.cfg.tClearMs) + s.cfg.tFsetUs +
      s.cfg.tDctlUs ∧
    (s.cfg = State.reset.cfg → totalWait es = 46090) ∧
    (∀ k, k < 77 → ∃ t, runSteps k u = .next t ∧ t.ready = s.ready ∧ t.trace = s.trace ++ es.take k) ∧
    ∃ t, runSteps 77 u = .next t ∧ t.seq = .idle ∧ t.ready = true ∧ t.trace = s.trace ++ es ∧
      (∀ l, Lines.get t.dir l = .output) ∧
      t.lvl = ⟨false, false, s.cfg.cmdEntryMode.getLsbD 0, s.cfg.cmdEntryMode.getLsbD 1,
        s.cfg.cmdEntryMode.getLsbD 2, s.cfg.cmdEntryMode.getLsbD 3⟩ ∧
      t.rx = (es.foldl (Bus.react s.cfg) ⟨s.lvl, s.rx⟩).rx ∧
      t.faults = s.faults ∧ t.refused = s.refused ∧ t.cfg = s.cfg ∧ t.hostMem = s.hostMem ∧
      t.input = s.input

/-- spec/70_reset_and_hazards.md R262: with the receiver in Detect8 and RS low, INIT leaves it in Four
with the cursor home, DDRAM all spaces and the modes set. The bounds on the execution times are what
INIT's waits give (R66). -/
def Obligations.InitBringsTheReceiverUp : Prop :=
  ∀ s : State, PinMap.wellFormed s.cfg.pinmap = true → s.seq = .idle →
    s.cfg.cmdFunctionSet = 0x28#8 → s.cfg.cmdDisplayCtrl = 0x0F#8 → s.cfg.cmdClear = 0x01#8 →
    s.cfg.cmdEntryMode = 0x06#8 →
    s.rx.rmode = .detect8 → s.lvl.rs = false →
    s.rx.need ≤ s.rx.gap + 1000 * (s.cfg.tPowerMs + s.cfg.tPulseMs) →
    s.cfg.execOtherUs ≤ 1000 * s.cfg.tPulseMs →
    s.cfg.execClearUs ≤ 1000 * (s.cfg.tClearMs + s.cfg.tPulseMs) →
    ∃ u t, exec .init s = .next u ∧ runSteps 77 u = .next t ∧ t.ready = true ∧
      t.rx.rmode = .four ∧ t.rx.phase = .hi ∧ t.rx.ac = some 0#7 ∧ t.rx.target = .ddram ∧
      (∀ a, a < 128 → Memory.get? t.rx.ddram a = some 0x20#8) ∧ t.rx.fset = some 0x28#8 ∧
      t.rx.dctl = some 0x0F#8 ∧ t.rx.entry = some 0x06#8 ∧ t.rx.shifted = false ∧
      t.rx.cgram = s.rx.cgram ∧ t.rx.gap = 0 ∧ t.rx.need = s.cfg.execOtherUs

/-- R272: INIT on a receiver already in Four, between two bytes, whatever RS is: the receiver is Unknown
by step 4's first latch, the 22nd event, or before it. With RS high this follows R63 and U20, where
R271's words say otherwise (log entry 27). That an Unknown receiver is the one state `Receiver.lost` is
the model's choice (log entry 11). -/
def Obligations.InitOnAFourBitReceiverLosesIt : Prop :=
  ∀ s : State, PinMap.wellFormed s.cfg.pinmap = true → s.seq = .idle →
    s.cfg.initNibble = 0b0010#4 → s.cfg.cmdFunctionSet = 0x28#8 →
    s.rx.rmode = .four → s.rx.phase = .hi →
    ∃ u t, exec .init s = .next u ∧ runSteps 22 u = .next t ∧ t.rx = Receiver.lost

/-- R271: with RS high before INIT, the lone nibble of step 3 sends a Detect8 receiver to Unknown, at
the 14th event. That an Unknown receiver is the one state `Receiver.lost` is the model's choice (log
entry 11). -/
def Obligations.InitWithRsHighLosesTheReceiver : Prop :=
  ∀ s : State, PinMap.wellFormed s.cfg.pinmap = true → s.seq = .idle →
    s.rx.rmode = .detect8 → s.lvl.rs = true →
    ∃ u t, exec .init s = .next u ∧ runSteps 14 u = .next t ∧ t.rx = Receiver.lost

/-! ### The Addressing Engine -/

/-- R97, R159: the sum is taken mod 256; for the cells below 0x80 − lineBase bit 7 is set and bits
6:0 are lineBase + cell; for larger cells bit 7 is clear until the sum passes 0x17F (log entry 26). With
the parameters of R6 there are the lines 1 to 4 and their bases. -/
def Obligations.AddressCalculatorBytes : Prop :=
  (∀ base cell : Byte,
    (addrCmd base cell).toNat = (0x80 + base.toNat + cell.toNat) % 256 ∧
    (cell.toNat < 0x80 - base.toNat →
      (addrCmd base cell).getLsbD 7 = true ∧ (addrCmd base cell).toNat % 128 = base.toNat + cell.toNat) ∧
    (base.toNat < 0x80 → 0x80 - base.toNat ≤ cell.toNat →
      (addrCmd base cell).getLsbD 7 = decide (0x100 ≤ base.toNat + cell.toNat))) ∧
  (let c := State.reset.cfg;
    lineBase c 1#8 = some 0x00#8 ∧ lineBase c 2#8 = some 0x40#8 ∧ lineBase c 3#8 = some 0x14#8 ∧
    lineBase c 4#8 = some 0x54#8 ∧ ∀ line : Byte, line = 0#8 ∨ 4 < line.toNat → lineBase c line = none)

/-- R98: the CGRAM address byte of each slot, and its fields. -/
def Obligations.CgramAddressByte : Prop :=
  (∀ slot : Byte, slot.toNat ≤ 7 →
    (cgCmd slot).toNat = 0x40 + 8 * slot.toNat ∧ ((cgCmd slot).extractLsb' 3 3).toNat = slot.toNat ∧
    (cgCmd slot).extractLsb' 0 3 = 0#3 ∧ (cgCmd slot).extractLsb' 6 2 = 0b01#2) ∧
  [0#8, 1#8, 2#8, 3#8, 4#8, 5#8, 6#8, 7#8].map cgCmd =
    [0x40#8, 0x48#8, 0x50#8, 0x58#8, 0x60#8, 0x68#8, 0x70#8, 0x78#8]

/-- R160: GOTO sends the one address command of a line 1 to DISPLAY_LINES that has a LINE_BASE, with
that base, for any cell; any other line is a silent no-op. R6 gives every line a base: that a line up
to DISPLAY_LINES without one is an invalid line too is the model's choice (log entry 23). -/
def Obligations.GotoSendsItsAddressCommand : Prop :=
  ∀ (line cell : Byte) (s : State), PinMap.wellFormed s.cfg.pinmap = true → s.seq = .idle →
    (∀ base : Byte, 1 ≤ line.toNat → line.toNat ≤ s.cfg.displayLines →
      s.cfg.lineBases[line.toNat - 1]? = some base →
      let es := transactionEvents s.cfg false (BitVec.ofNat 8 (0x80 + base.toNat + cell.toNat))
      exec (.goTo line cell) s = .next ((s.preMarked 0x05#8).starting es) ∧
      Emits es ((s.preMarked 0x05#8).starting es)) ∧
    (line.toNat = 0 ∨ s.cfg.displayLines < line.toNat ∨ s.cfg.lineBases.length < line.toNat → exec (.goTo line cell) s = .next s)

/-- R162, R163: GOTO_CLEAR sends GOTO's command, if the line is one of 1 to DISPLAY_LINES and has a
LINE_BASE, and then `count` spaces, also after an invalid line (D17, log entry 21); with neither it is
a no-op. R6 gives every line a base: that a line up to DISPLAY_LINES without one is an invalid line too
is the model's choice (log entry 23). The mark before INIT names GOTO_CLEAR's own op (R232, R231; log
entry 9). -/
def Obligations.GotoClearSendsCommandAndSpaces : Prop :=
  ∀ (line cell count : Byte) (s : State), PinMap.wellFormed s.cfg.pinmap = true → s.seq = .idle →
    let spaces := charTransactions s.cfg (List.replicate count.toNat 0x20#8)
    (∀ base : Byte, 1 ≤ line.toNat → line.toNat ≤ s.cfg.displayLines →
      s.cfg.lineBases[line.toNat - 1]? = some base →
      let es := transactionEvents s.cfg false (BitVec.ofNat 8 (0x80 + base.toNat + cell.toNat)) ++ spaces
      exec (.goToClear line cell count) s = .next ((s.preMarked 0x06#8).starting es) ∧
      Emits es ((s.preMarked 0x06#8).starting es) ∧ es.length = 15 * (1 + count.toNat)) ∧
    (line.toNat = 0 ∨ s.cfg.displayLines < line.toNat ∨ s.cfg.lineBases.length < line.toNat →
      (count = 0#8 → exec (.goToClear line cell count) s = .next s) ∧
      (count ≠ 0#8 →
        exec (.goToClear line cell count) s = .next ((s.preMarked 0x06#8).starting spaces) ∧
        Emits spaces ((s.preMarked 0x06#8).starting spaces)))

/-- R164, R165, R166, R236: CREATE_CHAR's ten transactions and ten waits, 160 events and, at the values
of R6, 20.95 ms, the bytes as they are given; a slot past the last of CGRAM_SLOTS, above 7 at the value
of R6, is refused with a mark and no event. -/
def Obligations.CreateCharSendsTheGlyph : Prop :=
  ∀ (slot : Byte) (m : Bitmap) (s : State), PinMap.wellFormed s.cfg.pinmap = true → s.seq = .idle →
    (slot.toNat < s.cfg.cgramSlots →
      let es := transactionEvents s.cfg false (BitVec.ofNat 8 (0x40 + 8 * slot.toNat)) ++
        [.waitUs s.cfg.tCgsetUs] ++
        [m.row0, m.row1, m.row2, m.row3, m.row4, m.row5, m.row6, m.row7].flatMap
          (fun b => transactionEvents s.cfg true b ++ [.waitUs s.cfg.tCgbyteUs]) ++
        transactionEvents s.cfg false 0x80#8 ++ [.waitUs s.cfg.tCgrestoreUs]
      exec (.createChar slot m) s = .next ((s.preMarked 0x07#8).starting es) ∧
      Emits es ((s.preMarked 0x07#8).starting es) ∧ es.length = 160 ∧
      totalWait es = 20000 * s.cfg.tPulseMs + s.cfg.tCgsetUs + 8 * s.cfg.tCgbyteUs + s.cfg.tCgrestoreUs ∧
      (s.cfg = State.reset.cfg → totalWait es = 20950)) ∧
    (s.cfg = State.reset.cfg → s.cfg.cgramSlots = 8) ∧
    (s.cfg.cgramSlots ≤ slot.toNat → exec (.createChar slot m) s =
      .next { s with refused := insertMark (.slotOutOfRange slot) s.refused })

/-- spec/20_memory.md R52, R65 and spec/42_addressing.md R165, R166: on a receiver that takes bytes in
the entry mode 0x06, CREATE_CHAR stores the eight bytes in the slot and nowhere else, leaves DDRAM as
it was, and the cursor is home. -/
def Obligations.CreateCharStoresTheGlyph : Prop :=
  ∀ (slot : Byte) (m : Bitmap) (s : State), PinMap.wellFormed s.cfg.pinmap = true → s.seq = .idle →
    slot.toNat ≤ 7 → slot.toNat < s.cfg.cgramSlots → s.rx.takesByte s.cfg → s.rx.entry = some 0x06#8 →
    s.cfg.execOtherUs ≤ s.cfg.tCgsetUs + 1000 * s.cfg.tPulseMs →
    s.cfg.execDataUs ≤ s.cfg.tCgbyteUs + 1000 * s.cfg.tPulseMs →
    ∃ u t, exec (.createChar slot m) s = .next u ∧ runSteps 160 u = .next t ∧
      t.rx.rmode = .four ∧ t.rx.phase = .hi ∧ t.rx.ac = some 0#7 ∧ t.rx.target = .ddram ∧
      t.rx.ddram = s.rx.ddram ∧
      (∀ k, k < 8 → Memory.get? t.rx.cgram (8 * slot.toNat + k) = m.toList[k]?) ∧
      (∀ a, (a < 8 * slot.toNat ∨ 8 * slot.toNat + 8 ≤ a) →
        Memory.get? t.rx.cgram a = Memory.get? s.rx.cgram a) ∧
      t.rx.fset = s.rx.fset ∧ t.rx.dctl = s.rx.dctl ∧ t.rx.entry = s.rx.entry ∧
      t.rx.shifted = s.rx.shifted

/-- R167: SHIFT with both selectors 0 or 1 sends the one command 0x10 + 8·kind + 4·dir; any other
pair is a silent no-op. -/
def Obligations.ShiftSendsItsCommand : Prop :=
  ∀ (dir kind : Byte) (s : State), PinMap.wellFormed s.cfg.pinmap = true → s.seq = .idle →
    ((dir = 0#8 ∨ dir = 1#8) ∧ (kind = 0#8 ∨ kind = 1#8) →
      let es := transactionEvents s.cfg false (BitVec.ofNat 8 (0x10 + 8 * kind.toNat + 4 * dir.toNat))
      exec (.shift dir kind) s = .next ((s.preMarked 0x08#8).starting es) ∧
      Emits es ((s.preMarked 0x08#8).starting es)) ∧
    (¬ ((dir = 0#8 ∨ dir = 1#8) ∧ (kind = 0#8 ∨ kind = 1#8)) → exec (.shift dir kind) s = .next s)

/-- spec/20_memory.md R51, R60, R65, R68: GOTO any cell that has a DDRAM byte (R50), of a line of
the display that has a LINE_BASE, then SEND_CHAR: the cursor stands there, and the display shows the byte there. -/
def Obligations.CharacterAppearsWhereGotoPointed : Prop :=
  ∀ (line base cell b : Byte) (s : State), PinMap.wellFormed s.cfg.pinmap = true → s.seq = .idle →
    1 ≤ line.toNat → line.toNat ≤ s.cfg.displayLines → s.cfg.lineBases[line.toNat - 1]? = some base →
    cell.toNat < s.cfg.displayCols →
    (base.toNat + cell.toNat ≤ 0x27 ∨
      (0x40 ≤ base.toNat + cell.toNat ∧ base.toNat + cell.toNat ≤ 0x67)) →
    s.rx.takesByte s.cfg → s.rx.visible = true → s.rx.entry = some 0x06#8 →
    s.cfg.execOtherUs ≤ 1000 * s.cfg.tPulseMs →
    ∃ u t v w, exec (.goTo line cell) s = .next u ∧ runSteps 15 u = .next t ∧
      t.rx.cursorAt s.cfg line cell.toNat = true ∧
      exec (.sendChar b) t = .next v ∧ runSteps 15 v = .next w ∧
      w.rx.shownCode s.cfg line cell.toNat = some b

/-! ### The encoders -/

/-- R190: WRITE_STR sends the bytes before the terminator, unchanged; a null reference and an empty
string are silent no-ops. -/
def Obligations.WriteStrSendsTheString : Prop :=
  ∀ (ref : Word16) (cs : List Byte) (s : State), PinMap.wellFormed s.cfg.pinmap = true →
    s.seq = .idle →
    (ref = 0#16 → exec (.writeStr ref) s = .next s) ∧
    (ref ≠ 0#16 → ref.toNat + cs.length < s.cfg.hostMemSize →
      (∀ k, k < cs.length → cs[k]? = some (HostMem.read s.hostMem (ref.toNat + k))) →
      0x00#8 ∉ cs → HostMem.read s.hostMem (ref.toNat + cs.length) = 0x00#8 →
      (cs = [] → exec (.writeStr ref) s = .next s) ∧
      (cs ≠ [] →
        exec (.writeStr ref) s = .next ((s.preMarked 0x09#8).starting (charTransactions s.cfg cs)) ∧
        Emits (charTransactions s.cfg cs) ((s.preMarked 0x09#8).starting (charTransactions s.cfg cs))))

/-- R190, R239: a scan that reaches HOST_MEM_SIZE records StringOutOfBounds with the address, after
the characters before it have been emitted, and then the block is Idle; nothing else changes but what
emitting them does. -/
def Obligations.WriteStrWithoutTerminatorIsMarked : Prop :=
  ∀ (ref : Word16) (cs : List Byte) (s : State), PinMap.wellFormed s.cfg.pinmap = true →
    s.seq = .idle → ref ≠ 0#16 →
    (s.cfg.hostMemSize ≤ ref.toNat → exec (.writeStr ref) s =
      .next { s with faults := insertMark (.stringOutOfBounds ref.toNat) s.faults }) ∧
    (cs ≠ [] → ref.toNat + cs.length = s.cfg.hostMemSize →
      (∀ k, k < cs.length → cs[k]? = some (HostMem.read s.hostMem (ref.toNat + k))) → 0x00#8 ∉ cs →
      let es := charTransactions s.cfg cs
      let u : State := { s.preMarked 0x09#8 with
        seq := .running es 0 (.stringOutOfBounds s.cfg.hostMemSize) }
      exec (.writeStr ref) s = .next u ∧ EmitsMarking [.stringOutOfBounds s.cfg.hostMemSize] es u)

/-- R193, R195, R196: WRITE_DEC sends the standard base-10 text of the s32, '-' first for a negative
one, the most negative one included (for that one the spec's own decision D20, log entry 22). -/
def Obligations.WriteDecSendsBaseTenText : Prop :=
  ∀ (v : Word32) (s : State), PinMap.wellFormed s.cfg.pinmap = true → s.seq = .idle →
    let es := charTransactions s.cfg (intText v.toInt)
    exec (.writeDec v) s = .next ((s.preMarked 0x0A#8).starting es) ∧
    Emits es ((s.preMarked 0x0A#8).starting es)

/-- R197, R198: WRITE_DEC4 sends the four decimal digits of v mod 10000, leading zeros kept. -/
def Obligations.WriteDec4SendsFourDigits : Prop :=
  ∀ (v : Word32) (s : State), PinMap.wellFormed s.cfg.pinmap = true → s.seq = .idle →
    let n := v.toNat % 10000
    let es := charTransactions s.cfg [BitVec.ofNat 8 (0x30 + n / 1000), BitVec.ofNat 8 (0x30 + n / 100 % 10),
      BitVec.ofNat 8 (0x30 + n / 10 % 10), BitVec.ofNat 8 (0x30 + n % 10)]
    exec (.writeDec4 v) s = .next ((s.preMarked 0x0B#8).starting es) ∧
    Emits es ((s.preMarked 0x0B#8).starting es) ∧ es.length = 60

/-- R200, R201: WRITE_BIN sends the eight bits, most significant first. -/
def Obligations.WriteBinSendsEightBits : Prop :=
  ∀ (v : Byte) (s : State), PinMap.wellFormed s.cfg.pinmap = true → s.seq = .idle →
    let es := charTransactions s.cfg ([7, 6, 5, 4, 3, 2, 1, 0].map fun i =>
      if v.getLsbD i then 0x31#8 else 0x30#8)
    exec (.writeBin v) s = .next ((s.preMarked 0x0C#8).starting es) ∧
    Emits es ((s.preMarked 0x0C#8).starting es) ∧ es.length = 120

/-- R203, R204: WRITE_BIN_SHORT sends the bits from the highest set one down, and nothing for 0. -/
def Obligations.WriteBinShortSendsNoLeadingZero : Prop :=
  ∀ (v : Byte) (s : State), PinMap.wellFormed s.cfg.pinmap = true → s.seq = .idle →
    (v = 0#8 → exec (.writeBinShort v) s = .next s) ∧
    (∀ h, h ≤ 7 → v.getLsbD h = true → (∀ j, h < j → v.getLsbD j = false) →
      let es := charTransactions s.cfg (([7, 6, 5, 4, 3, 2, 1, 0].map fun i =>
        if v.getLsbD i then 0x31#8 else 0x30#8).drop (7 - h))
      exec (.writeBinShort v) s = .next ((s.preMarked 0x0D#8).starting es) ∧
      Emits es ((s.preMarked 0x0D#8).starting es) ∧ es.length = 15 * (h + 1))

/-- R206, R207: WRITE_HEX sends two upper-case hexadecimal digits, the high nibble first. -/
def Obligations.WriteHexSendsTwoDigits : Prop :=
  ∀ (v : Byte) (s : State), PinMap.wellFormed s.cfg.pinmap = true → s.seq = .idle →
    let digit := fun n : Nat => if n < 10 then BitVec.ofNat 8 (0x30 + n) else BitVec.ofNat 8 (0x37 + n)
    let es := charTransactions s.cfg [digit (v.toNat / 16), digit (v.toNat % 16)]
    exec (.writeHex v) s = .next ((s.preMarked 0x0E#8).starting es) ∧
    Emits es ((s.preMarked 0x0E#8).starting es) ∧ es.length = 30

/-- R210, R213: for an input in range WRITE_FLOAT sends the base-10 text of the truncated integer
part, '.', and exactly three digits of the fraction. -/
def Obligations.WriteFloatSendsIntegerPointAndThreeDigits : Prop :=
  ∀ (x : Word32) (neg : Bool) (mag : Nat) (s : State), PinMap.wellFormed s.cfg.pinmap = true →
    s.seq = .idle → F32.ofBits x = .fin neg mag →
    let i := signed neg (mag / 2 ^ 149)
    i ≤ 2147483647 → -2147483648 ≤ i →
    ∃ f, f ≤ 999 ∧ floatParts x = some (i, f) ∧
      let es := charTransactions s.cfg (intText i ++ [0x2E#8, BitVec.ofNat 8 (0x30 + f / 100),
        BitVec.ofNat 8 (0x30 + f / 10 % 10), BitVec.ofNat 8 (0x30 + f % 10)])
      exec (.writeFloat x) s = .next ((s.preMarked 0x0F#8).starting es) ∧
      Emits es ((s.preMarked 0x0F#8).starting es)

/-- R211, R212, R214: the integer part and its subtraction are exact, and the one rounding step never
carries. Magnitudes are in units of 2^-149: the exact product is `rest * 1000`. It is rounded to `m`
steps of `2^k`, the spacing of binary32 values at its size (24 significant bits, and one unit at the
least): `m` is nearest, and even where two are equally near. The fraction is that, truncated, at most
999, and the exact thousandths or one above. -/
def Obligations.FloatFractionIsExactButForOneRounding : Prop :=
  ∀ (x : Word32) (neg : Bool) (mag : Nat), F32.ofBits x = .fin neg mag →
    let i := signed neg (mag / 2 ^ 149)
    let rest := mag % 2 ^ 149
    i ≤ 2147483647 → -2147483648 ≤ i →
    F32.ofInt i = .fin (decide (i < 0)) (mag / 2 ^ 149 * 2 ^ 149) ∧
    (∃ sg, F32.sub (F32.ofBits x) (F32.ofInt i) = .fin sg rest) ∧
    ∃ f k m, floatParts x = some (i, f) ∧ f ≤ 999 ∧ f = m * 2 ^ k / 2 ^ 149 ∧
      rest * 1000 < 2 ^ (k + 24) ∧ (k = 0 ∨ 2 ^ (k + 23) ≤ rest * 1000) ∧
      2 * (rest * 1000) ≤ (2 * m + 1) * 2 ^ k ∧ 2 * m * 2 ^ k ≤ 2 * (rest * 1000) + 2 ^ k ∧
      (2 * (rest * 1000) = (2 * m + 1) * 2 ^ k ∨ 2 * m * 2 ^ k = 2 * (rest * 1000) + 2 ^ k → m % 2 = 0) ∧
      rest * 1000 / 2 ^ 149 ≤ f ∧ f ≤ rest * 1000 / 2 ^ 149 + 1

/-- R215, R234: NaN, an infinity, or a truncated value outside the s32 range records FloatOutOfRange
with the bits, and emits nothing. -/
def Obligations.WriteFloatOutOfRangeIsMarked : Prop :=
  ∀ (x : Word32) (s : State), s.seq = .idle →
    (F32.ofBits x = .nan ∨ (∃ neg, F32.ofBits x = .inf neg) ∨
      (∃ neg mag, F32.ofBits x = .fin neg mag ∧
        ¬ (-2147483648 ≤ signed neg (mag / 2 ^ 149) ∧ signed neg (mag / 2 ^ 149) ≤ 2147483647))) →
    exec (.writeFloat x) s = .next { s with faults := insertMark (.floatOutOfRange x) s.faults }

/-! ### Reserved op codes -/

/-- R93, R237: a RESERVED op code emits no event, changes no register except `refused`, and records
ReservedOp. -/
def Obligations.ReservedOpIsRecordedAndNothingElse : Prop :=
  ∀ (op : Byte) (s : State), s.seq = .idle →
    let t := fun o : Byte => Host.Outcome.next (φ := Fault) (ρ := Refusal)
      { s with refused := insertMark (.reservedOp o) s.refused }
    exec .reserved00 s = t 0x00#8 ∧ exec (.reserved10 op) s = t op ∧ exec (.reserved20 op) s = t op ∧
    exec (.reserved40 op) s = t op ∧ exec (.reserved80 op) s = t op ∧
    (∀ rest, (op = 0x00#8 ∨ 0x10 ≤ op.toNat) → ∃ i, decodeRequest (op :: rest) = .ok (i, rest) ∧
      exec i s = t op)

/-! ### The receiver's instructions -/

/-- R64: clear display, in Four mode: every DDRAM byte reads 0x20, and the frame. -/
def Obligations.WireClearResult : Prop :=
  ∀ s : State, s.rx.rmode = .four →
    ∃ t, exec .wireClear s = .next t ∧ (∀ a, a < 128 → Memory.get? t.rx.ddram a = some 0x20#8) ∧
      (∀ a, 128 ≤ a → Memory.get? t.rx.ddram a = none) ∧
      t = { s with rx := { s.rx with ddram := t.rx.ddram, ac := some 0#7, target := .ddram
                                     shifted := false, need := s.cfg.execClearUs } }

/-- R64: function set, display control and entry mode, in Four mode. -/
def Obligations.WireModeBytesResult : Prop :=
  ∀ s : State, s.rx.rmode = .four →
    exec .wireFunctionSet s =
      .next { s with rx := { s.rx with fset := some 0x28#8, need := s.cfg.execOtherUs } } ∧
    exec .wireDisplayCtrl s =
      .next { s with rx := { s.rx with dctl := some 0x0F#8, need := s.cfg.execOtherUs } } ∧
    exec .wireEntryMode s =
      .next { s with rx := { s.rx with entry := some 0x06#8, need := s.cfg.execOtherUs } }

/-- R64: the cursor shifts, in Four mode: by one inside a DDRAM run, else ⊥. -/
def Obligations.WireCursorShiftResult : Prop :=
  ∀ s : State, s.rx.rmode = .four →
    let moved := fun v : Option (BitVec 7) => Host.Outcome.next (φ := Fault) (ρ := Refusal)
      { s with rx := { s.rx with ac := v, need := s.cfg.execOtherUs } }
    (∀ a, s.rx.target = .ddram → s.rx.ac = some a →
      ((0x01 ≤ a.toNat ∧ a.toNat ≤ 0x27) ∨ (0x41 ≤ a.toNat ∧ a.toNat ≤ 0x67) →
        exec .wireCursorShiftLeft s = moved (some (a - 1))) ∧
      (¬ ((0x01 ≤ a.toNat ∧ a.toNat ≤ 0x27) ∨ (0x41 ≤ a.toNat ∧ a.toNat ≤ 0x67)) →
        exec .wireCursorShiftLeft s = moved none) ∧
      (a.toNat ≤ 0x26 ∨ (0x40 ≤ a.toNat ∧ a.toNat ≤ 0x66) →
        exec .wireCursorShiftRight s = moved (some (a + 1))) ∧
      (¬ (a.toNat ≤ 0x26 ∨ (0x40 ≤ a.toNat ∧ a.toNat ≤ 0x66)) →
        exec .wireCursorShiftRight s = moved none)) ∧
    (s.rx.target = .cgram ∨ s.rx.ac = none →
      exec .wireCursorShiftLeft s = moved none ∧ exec .wireCursorShiftRight s = moved none)

/-- R64: the display shifts, in Four mode. -/
def Obligations.WireDisplayShiftResult : Prop :=
  ∀ s : State, s.rx.rmode = .four →
    exec .wireDisplayShiftLeft s =
      .next { s with rx := { s.rx with shifted := true, need := s.cfg.execOtherUs } } ∧
    exec .wireDisplayShiftRight s =
      .next { s with rx := { s.rx with shifted := true, need := s.cfg.execOtherUs } }

/-- R64: the two address commands, in Four mode. -/
def Obligations.WireSetAddressResult : Prop :=
  ∀ (a : BitVec 7) (g : BitVec 6) (s : State), s.rx.rmode = .four →
    exec (.wireSetDdramAddr a) s =
      .next { s with rx := { s.rx with ac := some a, target := .ddram, need := s.cfg.execOtherUs } } ∧
    ∃ v : BitVec 7, v.toNat = g.toNat ∧ exec (.wireSetCgramAddr g) s =
      .next { s with rx := { s.rx with ac := some v, target := .cgram, need := s.cfg.execOtherUs } }

/-- R65: a data write in Four mode stores the byte at the address counter, of DDRAM or CGRAM, and
advances it, to ⊥ past 0x27, 0x67 and 0x3F; every other byte reads as before. Where the entry mode is
not 0x06, the counter is ⊥ or DDRAM has no cell there, the receiver is Unknown; that this is the one
state `Receiver.lost` is the model's choice (log entry 11). -/
def Obligations.WireDataResult : Prop :=
  ∀ (b : Byte) (s : State), s.rx.rmode = .four →
    (s.rx.entry ≠ some 0x06#8 ∨ s.rx.ac = none →
      exec (.wireData b) s = .next { s with rx := Receiver.lost }) ∧
    (∀ a, s.rx.entry = some 0x06#8 → s.rx.ac = some a → s.rx.target = .ddram →
      (a.toNat ≤ 0x27 ∨ (0x40 ≤ a.toNat ∧ a.toNat ≤ 0x67) →
        ∃ t, exec (.wireData b) s = .next t ∧ Memory.get? t.rx.ddram a.toNat = some b ∧
          (∀ c, c ≠ a.toNat → Memory.get? t.rx.ddram c = Memory.get? s.rx.ddram c) ∧
          t = { s with rx := { s.rx with
            ddram := t.rx.ddram, need := s.cfg.execDataUs
            ac := if a.toNat = 0x27 ∨ a.toNat = 0x67 then none else some (a + 1) } }) ∧
      (¬ (a.toNat ≤ 0x27 ∨ (0x40 ≤ a.toNat ∧ a.toNat ≤ 0x67)) →
        exec (.wireData b) s = .next { s with rx := Receiver.lost })) ∧
    (∀ a, s.rx.entry = some 0x06#8 → s.rx.ac = some a → s.rx.target = .cgram →
      ∃ t, exec (.wireData b) s = .next t ∧ Memory.get? t.rx.cgram (a.toNat % 64) = some b ∧
        (∀ c, c ≠ a.toNat % 64 → Memory.get? t.rx.cgram c = Memory.get? s.rx.cgram c) ∧
        t = { s with rx := { s.rx with
          cgram := t.rx.cgram, need := s.cfg.execDataUs
          ac := if a.toNat % 64 = 0x3F then none else some (a + 1) } })

/-- R62: the lone nibble takes a Detect8 receiver to Four, waiting for a high nibble. -/
def Obligations.WireInitNibbleResult : Prop :=
  ∀ s : State, s.rx.rmode = .detect8 →
    exec .wireInitNibble s = .next { s with rx := { s.rx with
      rmode := .four, phase := .hi, need := s.cfg.execOtherUs, gap := 0 } }

/-- R62, R63, R64, R66: the latches that execute nothing. The first latch of a byte in Four mode holds
the nibble and RS, whatever RS is (log entry 27). The receiver is Unknown after a first latch, in Four
or in Detect8, that comes with too little wait, after a Detect8 latch of anything but INIT_NIBBLE with
rs = 0, and after a second latch whose RS is not the held one or whose byte has no modelled meaning.
That an Unknown receiver is the one state `Receiver.lost` is the model's choice (log entry 11). -/
def Obligations.LatchHoldsOrLosesTheReceiver : Prop :=
  ∀ (s : State) (es : List Event) (k : Nat) (w : EndWrite),
    PinMap.wellFormed s.cfg.pinmap = true → s.seq = .running es k w →
    es[k]? = some (.lvl .e false) → s.lvl.e = true →
    let n : Nibble := BitVec.ofBool s.lvl.d7 ++ (BitVec.ofBool s.lvl.d6 ++
      (BitVec.ofBool s.lvl.d5 ++ BitVec.ofBool s.lvl.d4))
    ∃ t, step s = .next t ∧
      (s.rx.rmode = .four → s.rx.phase = .hi → s.rx.gap < s.rx.need → t.rx = Receiver.lost) ∧
      (s.rx.rmode = .four → s.rx.phase = .hi → s.rx.need ≤ s.rx.gap →
        t.rx = { s.rx with hold := some n, holdRs := some s.lvl.rs, phase := .lo }) ∧
      (s.rx.rmode = .detect8 → s.rx.gap < s.rx.need ∨ s.lvl.rs = true ∨ n ≠ s.cfg.initNibble →
        t.rx = Receiver.lost) ∧
      (∀ h hrs, s.rx.rmode = .four → s.rx.phase = .lo → s.rx.hold = some h → s.rx.holdRs = some hrs →
        hrs ≠ s.lvl.rs ∨ (∃ e, decodeWire (BitVec.ofBool s.lvl.rs ++ (h ++ n)) = .error e) →
        t.rx = Receiver.lost)

/-- R67: Unknown is absorbing: no wire instruction and no step changes an Unknown receiver, every field
and every view of it reads ⊥ (the cursor is known to stand nowhere), and a power-on ends it. -/
def Obligations.UnknownReceiverStaysUnknown : Prop :=
  (∀ (i : Instr) (s : State), s.rx.rmode = .unknown → i.onWire = true → exec i s = .next s) ∧
  (∀ s t : State, s.rx.rmode = .unknown → step s = .next t → t.rx = s.rx) ∧
  (∀ (c : Config) (r : Receiver) (line : Byte) (cell : Nat), r.rmode = .unknown →
    r.known = none ∧ r.ddramAt cell = none ∧ r.cgramAt cell = none ∧ r.cursor = none ∧
    r.cursorAt c line cell = false ∧ r.shownCode c line cell = none ∧
    r.shownGlyph c line cell = none ∧ r.shownCursor = none) ∧
  (∀ s : State, s.powerCycle.rx = Receiver.powerOn s.cfg ∧ s.powerCycle.rx.rmode = .detect8)

/-- R273, R66: with a clear display that takes more than the one pulse between two transactions, the first
character after `SEND_CMD 0x01` leaves the receiver Unknown. That an Unknown receiver is the one state
`Receiver.lost` is the model's choice (log entry 11). -/
def Obligations.CharacterAfterHostClearLosesTheReceiver : Prop :=
  ∀ (b : Byte) (s : State), PinMap.wellFormed s.cfg.pinmap = true → s.seq = .idle →
    s.rx.takesByte s.cfg → 1000 * s.cfg.tPulseMs < s.cfg.execClearUs →
    ∃ u t v w, exec (.sendCmd 0x01#8) s = .next u ∧ runSteps 15 u = .next t ∧
      t.rx.ac = some 0#7 ∧ exec (.sendChar b) t = .next v ∧ runSteps 15 v = .next w ∧
      w.rx = Receiver.lost

/-! ### Frames, marks and whole-machine rules -/

/-- spec/10_state.md R20, R27, R32: accepting a request moves the sequencer and may add marks, and
touches nothing else: `dir`, `lvl`, `ready`, the trace, every memory, the receiver. `refused` grows by
CREATE_CHAR and the RESERVED op codes only. -/
def Obligations.AcceptingARequestFrame : Prop :=
  ∀ (i : Instr) (s t : State), i.onWire = false → exec i s = .next t →
    t = { s with seq := t.seq, faults := t.faults, refused := t.refused } ∧
    (∀ m, m ∈ s.faults → m ∈ t.faults) ∧ (∀ m, m ∈ s.refused → m ∈ t.refused) ∧
    (t.refused ≠ s.refused → (∃ slot m, i = .createChar slot m) ∨ i = .reserved00 ∨
      ∃ op, i = .reserved10 op ∨ i = .reserved20 op ∨ i = .reserved40 op ∨ i = .reserved80 op)

/-- R22, R24, R25, R27, R66, R233: a step in Running emits exactly the next event and applies it: the
line it names and no other; the mark of a level on a line that is no output; the receiver only on a
wait, which adds its lower bound in microseconds to `gap` and changes nothing else, and nothing at all
in Unknown (R67), or on a falling edge of E; and it advances by exactly one. -/
def Obligations.EventStepEmitsTheNextEvent : Prop :=
  ∀ (s : State) (es : List Event) (k : Nat) (w : EndWrite) (ev : Event),
    PinMap.wellFormed s.cfg.pinmap = true → s.seq = .running es k w → es[k]? = some ev →
    ∃ t, step s = .next t ∧ t.trace = s.trace ++ [ev] ∧
      t.seq = (if k + 1 < es.length then .running es (k + 1) w else .idle) ∧
      t.cfg = s.cfg ∧ t.refused = s.refused ∧ t.hostMem = s.hostMem ∧ t.input = s.input ∧
      (∀ l d, ev = .dir l d → Lines.get t.dir l = d ∧ t.lvl = s.lvl ∧
        ∀ j, j ≠ l → Lines.get t.dir j = Lines.get s.dir j) ∧
      (∀ l v, ev = .lvl l v → Lines.get t.lvl l = v ∧ t.dir = s.dir ∧
        (∀ j, j ≠ l → Lines.get t.lvl j = Lines.get s.lvl j) ∧
        (Lines.get s.dir l ≠ .output → FaultMark.levelOnNonOutput l ∈ t.faults)) ∧
      (∀ n, ev = .waitMs n ∨ ev = .waitUs n → t.lvl = s.lvl ∧ t.dir = s.dir) ∧
      (∀ n, ev = .waitMs n → t.rx =
        if s.rx.rmode = .unknown then s.rx else { s.rx with gap := s.rx.gap + n * 1000 }) ∧
      (∀ n, ev = .waitUs n → t.rx =
        if s.rx.rmode = .unknown then s.rx else { s.rx with gap := s.rx.gap + n }) ∧
      (k + 1 < es.length → t.ready = s.ready ∧ ∀ m, m ∈ t.faults → m ∈ s.faults ∨
        ∃ l v, ev = .lvl l v ∧ Lines.get s.dir l ≠ .output ∧ m = .levelOnNonOutput l) ∧
      ((∀ n, ev ≠ .waitMs n) → (∀ n, ev ≠ .waitUs n) → ¬ (ev = .lvl .e false ∧ s.lvl.e = true) →
        t.rx = s.rx)

/-- R232: a request other than INIT and HPW that transports while `ready` = 0 records PreInitTransport
with its op code when it is accepted; one that transports nothing, and any request while `ready` = 1,
and INIT and HPW always, add no such mark. -/
def Obligations.PreInitTransportIsMarkedOnce : Prop :=
  ∀ (i : Instr) (op : Byte) (rest : List Byte) (s t : State), encode i = .request (op :: rest) →
    s.seq = .idle → exec i s = .next t →
    (i ≠ .init → (∀ v, i ≠ .hpw v) → s.ready = false → t.seq ≠ .idle →
      FaultMark.preInitTransport op ∈ t.faults) ∧
    (∀ o, FaultMark.preInitTransport o ∈ t.faults → FaultMark.preInitTransport o ∉ s.faults →
      o = op ∧ s.ready = false ∧ t.seq ≠ .idle ∧ i ≠ .init ∧ ∀ v, i ≠ .hpw v)

/-- R121: in every event list the block accepts, no RS level, data level or direction stands between a
rise of E and the fall that follows it. -/
def Obligations.DataIsStableWhileEnableIsHigh : Prop :=
  ∀ (i : Instr) (s t : State) (es : List Event) (k : Nat) (w : EndWrite), i.onWire = false →
    exec i s = .next t → t.seq = .running es k w → stableWhileHigh false es = true

/-- R26, R25, R23, R58, R21: every step keeps the marks recorded, appends at most one event to the
trace, and leaves the configuration and host memory alone; `ready` is never cleared; and the issued
bytes, which are the model's own field (log entry 6), are taken from the front. -/
def Obligations.EveryStepOnlyAdds : Prop :=
  ∀ s t : State, step s = .next t →
    (∀ m, m ∈ s.faults → m ∈ t.faults) ∧ (∀ m, m ∈ s.refused → m ∈ t.refused) ∧
    (∃ es, t.trace = s.trace ++ es ∧ es.length ≤ 1) ∧ t.cfg = s.cfg ∧ t.hostMem = s.hostMem ∧
    (s.ready = true → t.ready = true) ∧ (∃ p, s.input = p ++ t.input)

/-- R21, R147: `ready` becomes 1 only at the last event of a list that INIT alone starts. -/
def Obligations.OnlyInitMakesTheSession : Prop :=
  (∀ s t : State, step s = .next t → s.ready = false → t.ready = true →
    ∃ es k, s.seq = .running es k .sessionReady ∧ es.length ≤ k + 1) ∧
  (∀ (i : Instr) (s t : State) (es : List Event) (k : Nat), s.seq = .idle → exec i s = .next t →
    t.seq = .running es k .sessionReady → i = .init)

/-- R69: no rule of the block depends on the receiver: with any other receiver the step goes the same
way and every register, the trace and the marks come out the same. -/
def Obligations.BlockNeverReadsTheReceiver : Prop :=
  ∀ (s : State) (r : Receiver),
    (∀ t, step s = .next t → ∃ r', step { s with rx := r } = .next { t with rx := r' }) ∧
    (∀ q, step s = .refused q → step { s with rx := r } = .refused q)

/-- R27: the small-step and the big-step reading agree: from the acceptance of a list of events, as
many steps as it has events end in the state that the list and the end write give as one function. That
the end of the request belongs to the last event's step is log entry 7. A request with no event ends
with its acceptance: that is stated of each request that has such a form. -/
def Obligations.SmallStepsServeTheWholeRequest : Prop :=
  ∀ (es : List Event) (w : EndWrite) (s : State), PinMap.wellFormed s.cfg.pinmap = true → es ≠ [] →
    runSteps es.length { s with seq := .running es 0 w } = .next (s.served es w)

/-! ### Invariants -/

/-- Every step keeps every memory in its canonical form: DDRAM inside 128 addresses, CGRAM inside 64,
addresses strictly rising, host memory listing no 0x00. -/
def Obligations.StepsKeepMemoryCanonical : Prop :=
  ∀ s t : State, s.memoryWf = true → step s = .next t → t.memoryWf = true

/-- Every step keeps: Running has an event left (R27), no mark is recorded twice (R26), Unknown is the
one lost receiver (R67) and a Lo phase holds a nibble and its RS (R63). -/
def Obligations.StepsKeepTheMachineConsistent : Prop :=
  ∀ s t : State, s.seq.live = true → s.marksDistinct = true → s.rx.consistent = true →
    step s = .next t →
    t.seq.live = true ∧ t.marksDistinct = true ∧ t.rx.consistent = true

/-- R251: the receiver and the levels are always what the trace replays to from power-on, for every
configuration: it holds at power-on, and every step keeps it. -/
def Obligations.ReceiverIsTheReplayOfTheTrace : Prop :=
  (∀ c : Config, (State.powerOn c).replayed) ∧
  ∀ s t : State, s.replayed → step s = .next t → t.replayed

/-- The invariants hold at reset, and every parameter there has the value of spec/00_scope.md R6: the
source's (log entry 5) or the spec's own default (log entry 4). R6 gives PINMAP no value, and it is
well formed (log entry 3); what `Config.wellFormed` asks beyond R23's distinct pins is log entry 23. -/
def Obligations.InvariantsHoldAtReset : Prop :=
  State.reset.memoryWf = true ∧ State.reset.seq.live = true ∧ State.reset.marksDistinct = true ∧
  State.reset.rx.consistent = true ∧ State.reset.replayed ∧
  PinMap.wellFormed State.reset.cfg.pinmap = true ∧ Config.wellFormed State.reset.cfg = true ∧
  (let c := State.reset.cfg;
    c.ports = [.a, .b, .c, .d] ∧ c.pinsPerPort = 8 ∧ c.displayLines = 4 ∧ c.displayCols = 20 ∧
    c.lineBases = [0x00#8, 0x40#8, 0x14#8, 0x54#8] ∧ c.cgramSlots = 8 ∧ c.tPulseMs = 1 ∧
    c.tPowerMs = 35 ∧ c.tFsetUs = 45 ∧ c.tDctlUs = 45 ∧ c.tClearMs = 2 ∧ c.tCgsetUs = 50 ∧
    c.tCgbyteUs = 100 ∧ c.tCgrestoreUs = 100 ∧ c.cmdFunctionSet = 0x28#8 ∧ c.cmdDisplayCtrl = 0x0F#8 ∧
    c.cmdClear = 0x01#8 ∧ c.cmdEntryMode = 0x06#8 ∧ c.initNibble = 0b0010#4 ∧
    c.gpioResetDir = .input ∧ c.gpioResetLevel = false ∧ c.hostMemSize = 65536 ∧
    c.execClearUs = 1520 ∧ c.execOtherUs = 37 ∧ c.execDataUs = 41 ∧ c.powerUpUs = 15000)
end

