-- ==== Sys2Proof/Laws/Memory.lean ====
section
/-!
SUPPORT. The laws of memory: reading after writing, and every operation keeps the canonical form.
-/

-- One theorem at a time: many theorems waiting on one definition would each hold a thread.
set_option Elab.async false

namespace Sys2Proof.Laws

open Sys2Proof.Machine

theorem get?_put_same (m : List Host.Cell) (a : Nat) (v : Byte) :
    Memory.get? (Memory.put m a v) a = some v := by
  induction m with
  | nil => simp [Memory.put, Memory.get?]
  | cons c rest ih =>
    obtain ⟨b, w⟩ := c
    simp only [Memory.put]
    split_ifs with h1 h2
    · simp [Memory.get?]
    · simp [Memory.get?]
    · simp [Memory.get?, h2, ih]

theorem get?_put_other (m : List Host.Cell) {a c : Nat} (v : Byte) (h : c ≠ a) :
    Memory.get? (Memory.put m a v) c = Memory.get? m c := by
  induction m with
  | nil => simp [Memory.put, Memory.get?, h]
  | cons d rest ih =>
    obtain ⟨b, w⟩ := d
    simp only [Memory.put]
    split_ifs with h1 h2
    · simp [Memory.get?, h]
    · subst h2; simp [Memory.get?, h]
    · simp [Memory.get?, ih]

theorem get?_erase_other (m : List Host.Cell) {a c : Nat} (h : c ≠ a) :
    Memory.get? (Memory.erase m a) c = Memory.get? m c := by
  induction m with
  | nil => rfl
  | cons d rest ih =>
    obtain ⟨b, w⟩ := d
    simp only [Memory.erase]
    split_ifs with h1
    · subst h1; simp [Memory.get?, h]
    · simp [Memory.get?, ih]

theorem risingFrom_mono {lo hi : Nat} (m : List Host.Cell) (h : lo ≤ hi)
    (hm : Memory.risingFrom hi m = true) : Memory.risingFrom lo m = true := by
  cases m with
  | nil => rfl
  | cons c rest =>
    simp only [Memory.risingFrom, Bool.and_eq_true, decide_eq_true_eq] at hm ⊢
    exact ⟨by omega, hm.2⟩

theorem get?_below {lo a : Nat} (m : List Host.Cell) (hm : Memory.risingFrom lo m = true)
    (h : a < lo) : Memory.get? m a = none := by
  induction m generalizing lo with
  | nil => rfl
  | cons c rest ih =>
    obtain ⟨b, w⟩ := c
    simp only [Memory.risingFrom, Bool.and_eq_true, decide_eq_true_eq] at hm
    simp only [Memory.get?]
    rw [if_neg (by omega)]
    exact ih hm.2 (by omega)

theorem risingFrom_put {lo a : Nat} (m : List Host.Cell) (v : Byte) (h : lo ≤ a)
    (hm : Memory.risingFrom lo m = true) : Memory.risingFrom lo (Memory.put m a v) = true := by
  induction m generalizing lo with
  | nil => simp [Memory.put, Memory.risingFrom, h]
  | cons c rest ih =>
    obtain ⟨b, w⟩ := c
    simp only [Memory.risingFrom, Bool.and_eq_true, decide_eq_true_eq] at hm
    simp only [Memory.put]
    split_ifs with h1 h2
    · simp only [Memory.risingFrom, Bool.and_eq_true, decide_eq_true_eq]
      exact ⟨h, by omega, hm.2⟩
    · subst h2
      simp only [Memory.risingFrom, Bool.and_eq_true, decide_eq_true_eq]
      exact ⟨h, hm.2⟩
    · simp only [Memory.risingFrom, Bool.and_eq_true, decide_eq_true_eq]
      exact ⟨hm.1, ih (by omega) hm.2⟩

theorem risingFrom_erase {lo : Nat} (m : List Host.Cell) (a : Nat)
    (hm : Memory.risingFrom lo m = true) : Memory.risingFrom lo (Memory.erase m a) = true := by
  induction m generalizing lo with
  | nil => rfl
  | cons c rest ih =>
    obtain ⟨b, w⟩ := c
    simp only [Memory.risingFrom, Bool.and_eq_true, decide_eq_true_eq] at hm
    simp only [Memory.erase]
    split_ifs with h1
    · exact risingFrom_mono rest (by omega) hm.2
    · simp only [Memory.risingFrom, Bool.and_eq_true, decide_eq_true_eq]
      exact ⟨hm.1, ih hm.2⟩

/-- A property of every listed pair stays true of every listed pair after a write that has it. -/
theorem all_put (p : Host.Cell → Bool) (m : List Host.Cell) (a : Nat) (v : Byte)
    (hv : p (a, v) = true) (hm : m.all p = true) : (Memory.put m a v).all p = true := by
  induction m with
  | nil => simp [Memory.put, hv]
  | cons c rest ih =>
    obtain ⟨b, w⟩ := c
    simp only [List.all_cons, Bool.and_eq_true] at hm
    simp only [Memory.put]
    split_ifs <;> simp [hv, hm.1, hm.2, ih hm.2]

theorem all_erase (p : Host.Cell → Bool) (m : List Host.Cell) (a : Nat)
    (hm : m.all p = true) : (Memory.erase m a).all p = true := by
  induction m with
  | nil => rfl
  | cons c rest ih =>
    obtain ⟨b, w⟩ := c
    simp only [List.all_cons, Bool.and_eq_true] at hm
    simp only [Memory.erase]
    split_ifs <;> simp [hm.1, hm.2, ih hm.2]

/-- Writing a byte of DDRAM or CGRAM keeps the canonical form. -/
theorem wf_put {size a : Nat} (m : List Host.Cell) (v : Byte) (ha : a < size)
    (hm : Memory.wf size m = true) : Memory.wf size (Memory.put m a v) = true := by
  simp only [Memory.wf, Bool.and_eq_true] at hm ⊢
  exact ⟨risingFrom_put m v (Nat.zero_le a) hm.1, all_put _ m a v (by simpa using ha) hm.2⟩

/-- The memory that holds one byte everywhere, as the clear command writes it, is in canonical form. -/
theorem wf_fill_ddram (v : Byte) : Memory.wf ddramSize (Memory.fill ddramSize v) = true := by
  revert v; decide +kernel

theorem wf_nil (size : Nat) : Memory.wf size [] = true := rfl

/-- The host's write of one byte keeps the canonical form of its memory. -/
theorem hostMem_wf_write (m : List Host.Cell) (a : Nat) (v : Byte) (hm : HostMem.wf m = true) :
    HostMem.wf (HostMem.write m a v) = true := by
  simp only [HostMem.wf, Bool.and_eq_true] at hm ⊢
  unfold HostMem.write
  split_ifs with hv
  · exact ⟨risingFrom_erase m a hm.1, all_erase _ m a hm.2⟩
  · exact ⟨risingFrom_put m v (Nat.zero_le a) hm.1, all_put _ m a v (by simpa using hv) hm.2⟩

theorem hostMem_wf_writeList (m : List Host.Cell) (a : Nat) (bs : List Byte)
    (hm : HostMem.wf m = true) : HostMem.wf (HostMem.writeList m a bs) = true := by
  induction bs generalizing m a with
  | nil => exact hm
  | cons b bs ih => exact ih _ _ (hostMem_wf_write m a b hm)

theorem get?_erase_same {lo : Nat} (m : List Host.Cell) (a : Nat)
    (hm : Memory.risingFrom lo m = true) : Memory.get? (Memory.erase m a) a = none := by
  induction m generalizing lo with
  | nil => rfl
  | cons c rest ih =>
    obtain ⟨b, w⟩ := c
    simp only [Memory.risingFrom, Bool.and_eq_true, decide_eq_true_eq] at hm
    simp only [Memory.erase]
    split_ifs with h1
    · subst h1
      exact get?_below rest hm.2 (by omega)
    · simp [Memory.get?, h1, ih hm.2]

/-- Host memory reads back what the host wrote. -/
theorem hostMem_read_write_same (m : List Host.Cell) (a : Nat) (v : Byte)
    (hm : HostMem.wf m = true) : HostMem.read (HostMem.write m a v) a = v := by
  simp only [HostMem.wf, Bool.and_eq_true] at hm
  unfold HostMem.read HostMem.write
  split_ifs with hv
  · simp [get?_erase_same m a hm.1, hv]
  · simp [get?_put_same]

/-- A host write leaves every other address alone. -/
theorem hostMem_read_write_other (m : List Host.Cell) {a c : Nat} (v : Byte) (h : c ≠ a) :
    HostMem.read (HostMem.write m a v) c = HostMem.read m c := by
  unfold HostMem.read HostMem.write
  split_ifs
  · rw [get?_erase_other m h]
  · rw [get?_put_other m v h]

end Sys2Proof.Laws
end

