-- ==== Sys2Proof/Laws/PerInstr.lean ====
section
/-!
SUPPORT. One law for each instruction, by its constructor: the encoding of a well-formed instruction
carries the fixed bits of its row of spec/opcode_table.json.
-/

-- One theorem at a time: many theorems waiting on one definition would each hold a thread.
set_option Elab.async false

namespace Sys2Proof.Laws.RowBits

/-- The bits that the instruction's row of the opcode table fixes are the row's. -/
def Statement (i : Instr) : Prop :=
  i.wellFormed = true → (encode i).tableBits &&& i.row.mask = i.row.pattern

theorem init : Statement (.init) := by
  simp [Statement, encode, Code.tableBits, Instr.row]

theorem sendCmd (b : Byte) : Statement (.sendCmd b) := by
  simp [Statement, encode, Code.tableBits, Instr.row]

theorem sendChar (b : Byte) : Statement (.sendChar b) := by
  simp [Statement, encode, Code.tableBits, Instr.row]

theorem hpw (v : Byte) : Statement (.hpw v) := by
  simp [Statement, encode, Code.tableBits, Instr.row]

theorem goTo (line cell : Byte) : Statement (.goTo line cell) := by
  simp [Statement, encode, Code.tableBits, Instr.row]

theorem goToClear (line cell count : Byte) : Statement (.goToClear line cell count) := by
  simp [Statement, encode, Code.tableBits, Instr.row]

theorem createChar (slot : Byte) (bitmap : Bitmap) : Statement (.createChar slot bitmap) := by
  simp [Statement, encode, Code.tableBits, Instr.row]

theorem shift (dir kind : Byte) : Statement (.shift dir kind) := by
  simp [Statement, encode, Code.tableBits, Instr.row]

theorem writeStr (ref : Word16) : Statement (.writeStr ref) := by
  simp [Statement, encode, Code.tableBits, Instr.row]

theorem writeDec (v : Word32) : Statement (.writeDec v) := by
  simp [Statement, encode, Code.tableBits, Instr.row]

theorem writeDec4 (v : Word32) : Statement (.writeDec4 v) := by
  simp [Statement, encode, Code.tableBits, Instr.row]

theorem writeBin (v : Byte) : Statement (.writeBin v) := by
  simp [Statement, encode, Code.tableBits, Instr.row]

theorem writeBinShort (v : Byte) : Statement (.writeBinShort v) := by
  simp [Statement, encode, Code.tableBits, Instr.row]

theorem writeHex (v : Byte) : Statement (.writeHex v) := by
  simp [Statement, encode, Code.tableBits, Instr.row]

theorem writeFloat (x : Word32) : Statement (.writeFloat x) := by
  simp [Statement, encode, Code.tableBits, Instr.row]

theorem reserved00 : Statement (.reserved00) := by
  simp [Statement, encode, Code.tableBits, Instr.row]

theorem reserved10 (op : Byte) : Statement (.reserved10 op) := by
  revert op; unfold Statement; decide +kernel

theorem reserved20 (op : Byte) : Statement (.reserved20 op) := by
  revert op; unfold Statement; decide +kernel

theorem reserved40 (op : Byte) : Statement (.reserved40 op) := by
  revert op; unfold Statement; decide +kernel

theorem reserved80 (op : Byte) : Statement (.reserved80 op) := by
  revert op; unfold Statement; decide +kernel

theorem wireClear : Statement (.wireClear) := by
  simp [Statement, encode, Code.tableBits, Instr.row]

theorem wireEntryMode : Statement (.wireEntryMode) := by
  simp [Statement, encode, Code.tableBits, Instr.row]

theorem wireDisplayCtrl : Statement (.wireDisplayCtrl) := by
  simp [Statement, encode, Code.tableBits, Instr.row]

theorem wireCursorShiftLeft : Statement (.wireCursorShiftLeft) := by
  simp [Statement, encode, Code.tableBits, Instr.row]

theorem wireCursorShiftRight : Statement (.wireCursorShiftRight) := by
  simp [Statement, encode, Code.tableBits, Instr.row]

theorem wireDisplayShiftLeft : Statement (.wireDisplayShiftLeft) := by
  simp [Statement, encode, Code.tableBits, Instr.row]

theorem wireDisplayShiftRight : Statement (.wireDisplayShiftRight) := by
  simp [Statement, encode, Code.tableBits, Instr.row]

theorem wireFunctionSet : Statement (.wireFunctionSet) := by
  simp [Statement, encode, Code.tableBits, Instr.row]

theorem wireSetCgramAddr (a : BitVec 6) : Statement (.wireSetCgramAddr a) := by
  revert a; unfold Statement; decide +kernel

theorem wireSetDdramAddr (a : BitVec 7) : Statement (.wireSetDdramAddr a) := by
  revert a; unfold Statement; decide +kernel

theorem wireData (b : Byte) : Statement (.wireData b) := by
  revert b; unfold Statement; decide +kernel

theorem wireInitNibble : Statement (.wireInitNibble) := by
  simp [Statement, encode, Code.tableBits, Instr.row]

end Sys2Proof.Laws.RowBits
end

