-- ==== Sys2Proof/Laws/State.lean ====
section
/-!
SUPPORT. What each update of the state does to each field, so that no later proof unfolds an update.
-/

-- One theorem at a time: many theorems waiting on one definition would each hold a thread.
set_option Elab.async false

namespace Sys2Proof.Laws

open Sys2Proof.Machine

variable (s : State)

/-! ### `State.raise` -/

@[simp] theorem raise_cfg (m : FaultMark) : (s.raise m).cfg = s.cfg := rfl
@[simp] theorem raise_ready (m : FaultMark) : (s.raise m).ready = s.ready := rfl
@[simp] theorem raise_dir (m : FaultMark) : (s.raise m).dir = s.dir := rfl
@[simp] theorem raise_lvl (m : FaultMark) : (s.raise m).lvl = s.lvl := rfl
@[simp] theorem raise_faults (m : FaultMark) : (s.raise m).faults = insertMark m s.faults := rfl
@[simp] theorem raise_refused (m : FaultMark) : (s.raise m).refused = s.refused := rfl
@[simp] theorem raise_seq (m : FaultMark) : (s.raise m).seq = s.seq := rfl
@[simp] theorem raise_trace (m : FaultMark) : (s.raise m).trace = s.trace := rfl
@[simp] theorem raise_hostMem (m : FaultMark) : (s.raise m).hostMem = s.hostMem := rfl
@[simp] theorem raise_input (m : FaultMark) : (s.raise m).input = s.input := rfl
@[simp] theorem raise_rx (m : FaultMark) : (s.raise m).rx = s.rx := rfl

/-! ### `State.refuse` -/

@[simp] theorem refuse_cfg (m : RefusalMark) : (s.refuse m).cfg = s.cfg := rfl
@[simp] theorem refuse_ready (m : RefusalMark) : (s.refuse m).ready = s.ready := rfl
@[simp] theorem refuse_dir (m : RefusalMark) : (s.refuse m).dir = s.dir := rfl
@[simp] theorem refuse_lvl (m : RefusalMark) : (s.refuse m).lvl = s.lvl := rfl
@[simp] theorem refuse_faults (m : RefusalMark) : (s.refuse m).faults = s.faults := rfl
@[simp] theorem refuse_refused (m : RefusalMark) : (s.refuse m).refused = insertMark m s.refused := rfl
@[simp] theorem refuse_seq (m : RefusalMark) : (s.refuse m).seq = s.seq := rfl
@[simp] theorem refuse_trace (m : RefusalMark) : (s.refuse m).trace = s.trace := rfl
@[simp] theorem refuse_hostMem (m : RefusalMark) : (s.refuse m).hostMem = s.hostMem := rfl
@[simp] theorem refuse_input (m : RefusalMark) : (s.refuse m).input = s.input := rfl
@[simp] theorem refuse_rx (m : RefusalMark) : (s.refuse m).rx = s.rx := rfl

/-! ### `State.record` -/

@[simp] theorem record_cfg (ev : Event) : (s.record ev).cfg = s.cfg := rfl
@[simp] theorem record_ready (ev : Event) : (s.record ev).ready = s.ready := rfl
@[simp] theorem record_dir (ev : Event) : (s.record ev).dir = s.dir := rfl
@[simp] theorem record_lvl (ev : Event) : (s.record ev).lvl = s.lvl := rfl
@[simp] theorem record_faults (ev : Event) : (s.record ev).faults = s.faults := rfl
@[simp] theorem record_refused (ev : Event) : (s.record ev).refused = s.refused := rfl
@[simp] theorem record_seq (ev : Event) : (s.record ev).seq = s.seq := rfl
@[simp] theorem record_trace (ev : Event) : (s.record ev).trace = s.trace ++ [ev] := rfl
@[simp] theorem record_hostMem (ev : Event) : (s.record ev).hostMem = s.hostMem := rfl
@[simp] theorem record_input (ev : Event) : (s.record ev).input = s.input := rfl
@[simp] theorem record_rx (ev : Event) : (s.record ev).rx = s.rx := rfl

/-! ### `State.mapRx` -/

@[simp] theorem mapRx_cfg (f : Receiver → Receiver) : (s.mapRx f).cfg = s.cfg := rfl
@[simp] theorem mapRx_ready (f : Receiver → Receiver) : (s.mapRx f).ready = s.ready := rfl
@[simp] theorem mapRx_dir (f : Receiver → Receiver) : (s.mapRx f).dir = s.dir := rfl
@[simp] theorem mapRx_lvl (f : Receiver → Receiver) : (s.mapRx f).lvl = s.lvl := rfl
@[simp] theorem mapRx_faults (f : Receiver → Receiver) : (s.mapRx f).faults = s.faults := rfl
@[simp] theorem mapRx_refused (f : Receiver → Receiver) : (s.mapRx f).refused = s.refused := rfl
@[simp] theorem mapRx_seq (f : Receiver → Receiver) : (s.mapRx f).seq = s.seq := rfl
@[simp] theorem mapRx_trace (f : Receiver → Receiver) : (s.mapRx f).trace = s.trace := rfl
@[simp] theorem mapRx_hostMem (f : Receiver → Receiver) : (s.mapRx f).hostMem = s.hostMem := rfl
@[simp] theorem mapRx_input (f : Receiver → Receiver) : (s.mapRx f).input = s.input := rfl
@[simp] theorem mapRx_rx (f : Receiver → Receiver) : (s.mapRx f).rx = f s.rx := rfl

/-! ### `State.poke` -/

@[simp] theorem poke_cfg (a : Nat) (bs : List Byte) : (s.poke a bs).cfg = s.cfg := rfl
@[simp] theorem poke_ready (a : Nat) (bs : List Byte) : (s.poke a bs).ready = s.ready := rfl
@[simp] theorem poke_dir (a : Nat) (bs : List Byte) : (s.poke a bs).dir = s.dir := rfl
@[simp] theorem poke_lvl (a : Nat) (bs : List Byte) : (s.poke a bs).lvl = s.lvl := rfl
@[simp] theorem poke_faults (a : Nat) (bs : List Byte) : (s.poke a bs).faults = s.faults := rfl
@[simp] theorem poke_refused (a : Nat) (bs : List Byte) : (s.poke a bs).refused = s.refused := rfl
@[simp] theorem poke_seq (a : Nat) (bs : List Byte) : (s.poke a bs).seq = s.seq := rfl
@[simp] theorem poke_trace (a : Nat) (bs : List Byte) : (s.poke a bs).trace = s.trace := rfl
@[simp] theorem poke_hostMem (a : Nat) (bs : List Byte) : (s.poke a bs).hostMem = HostMem.writeList s.hostMem a bs := rfl
@[simp] theorem poke_input (a : Nat) (bs : List Byte) : (s.poke a bs).input = s.input := rfl
@[simp] theorem poke_rx (a : Nat) (bs : List Byte) : (s.poke a bs).rx = s.rx := rfl

/-! ### `State.advance` -/

@[simp] theorem advance_cfg : s.advance.cfg = s.cfg := rfl
@[simp] theorem advance_ready : s.advance.ready = s.ready := rfl
@[simp] theorem advance_dir : s.advance.dir = s.dir := rfl
@[simp] theorem advance_lvl : s.advance.lvl = s.lvl := rfl
@[simp] theorem advance_faults : s.advance.faults = s.faults := rfl
@[simp] theorem advance_refused : s.advance.refused = s.refused := rfl
@[simp] theorem advance_seq : s.advance.seq = s.seq.advance := rfl
@[simp] theorem advance_trace : s.advance.trace = s.trace := rfl
@[simp] theorem advance_hostMem : s.advance.hostMem = s.hostMem := rfl
@[simp] theorem advance_input : s.advance.input = s.input := rfl
@[simp] theorem advance_rx : s.advance.rx = s.rx := rfl

/-! ### `State.gpio` -/

@[simp] theorem gpio_cfg (ev : Event) : (s.gpio ev).cfg = s.cfg := rfl
@[simp] theorem gpio_ready (ev : Event) : (s.gpio ev).ready = s.ready := rfl
@[simp] theorem gpio_dir (ev : Event) : (s.gpio ev).dir = ev.dirs s.dir := rfl
@[simp] theorem gpio_lvl (ev : Event) : (s.gpio ev).lvl = ev.levels s.lvl := rfl
@[simp] theorem gpio_faults (ev : Event) : (s.gpio ev).faults = ev.marks s.dir s.faults := rfl
@[simp] theorem gpio_refused (ev : Event) : (s.gpio ev).refused = s.refused := rfl
@[simp] theorem gpio_seq (ev : Event) : (s.gpio ev).seq = s.seq := rfl
@[simp] theorem gpio_trace (ev : Event) : (s.gpio ev).trace = s.trace := rfl
@[simp] theorem gpio_hostMem (ev : Event) : (s.gpio ev).hostMem = s.hostMem := rfl
@[simp] theorem gpio_input (ev : Event) : (s.gpio ev).input = s.input := rfl
@[simp] theorem gpio_rx (ev : Event) : (s.gpio ev).rx = s.rx := rfl

/-! ### `State.react` -/

@[simp] theorem react_cfg (ev : Event) : (s.react ev).cfg = s.cfg := rfl
@[simp] theorem react_ready (ev : Event) : (s.react ev).ready = s.ready := rfl
@[simp] theorem react_dir (ev : Event) : (s.react ev).dir = ev.dirs s.dir := rfl
@[simp] theorem react_lvl (ev : Event) : (s.react ev).lvl = ev.levels s.lvl := rfl
@[simp] theorem react_faults (ev : Event) : (s.react ev).faults = ev.marks s.dir s.faults := rfl
@[simp] theorem react_refused (ev : Event) : (s.react ev).refused = s.refused := rfl
@[simp] theorem react_seq (ev : Event) : (s.react ev).seq = s.seq := rfl
@[simp] theorem react_trace (ev : Event) : (s.react ev).trace = s.trace ++ [ev] := rfl
@[simp] theorem react_hostMem (ev : Event) : (s.react ev).hostMem = s.hostMem := rfl
@[simp] theorem react_input (ev : Event) : (s.react ev).input = s.input := rfl
@[simp] theorem react_rx (ev : Event) : (s.react ev).rx = s.rx.react s.cfg s.lvl ev := rfl

/-! ### `State.finish` -/

@[simp] theorem finish_cfg (w : EndWrite) : (s.finish w).cfg = s.cfg := by cases w <;> rfl
@[simp] theorem finish_dir (w : EndWrite) : (s.finish w).dir = s.dir := by cases w <;> rfl
@[simp] theorem finish_lvl (w : EndWrite) : (s.finish w).lvl = s.lvl := by cases w <;> rfl
@[simp] theorem finish_refused (w : EndWrite) : (s.finish w).refused = s.refused := by cases w <;> rfl
@[simp] theorem finish_trace (w : EndWrite) : (s.finish w).trace = s.trace := by cases w <;> rfl
@[simp] theorem finish_hostMem (w : EndWrite) : (s.finish w).hostMem = s.hostMem := by cases w <;> rfl
@[simp] theorem finish_input (w : EndWrite) : (s.finish w).input = s.input := by cases w <;> rfl
@[simp] theorem finish_rx (w : EndWrite) : (s.finish w).rx = s.rx := by cases w <;> rfl
@[simp] theorem finish_seq (w : EndWrite) : (s.finish w).seq = .idle := by cases w <;> rfl

theorem finish_ready (w : EndWrite) :
    (s.finish w).ready = (s.ready || decide (w = .sessionReady)) := by
  cases w <;> simp [State.finish, State.raise]

theorem finish_faults (w : EndWrite) :
    (s.finish w).faults = match w with
      | .stringOutOfBounds a => insertMark (.stringOutOfBounds a) s.faults
      | _ => s.faults := by
  cases w <;> rfl

/-! ### `Lines` -/

@[simp] theorem get_set_same {α : Type} (x : Lines α) (l : Line) (v : α) :
    Lines.get (Lines.set x l v) l = v := by cases l <;> rfl

theorem get_set_other {α : Type} (x : Lines α) {l k : Line} (v : α) (h : k ≠ l) :
    Lines.get (Lines.set x l v) k = Lines.get x k := by
  cases l <;> cases k <;> first | rfl | exact absurd rfl h

/-! ### `insertMark` -/

/-- A set gains the mark and nothing else. -/
@[simp] theorem mem_insertMark {α : Type} [DecidableEq α] (m x : α) (ms : List α) :
    x ∈ insertMark m ms ↔ x = m ∨ x ∈ ms := by
  unfold insertMark
  split
  · constructor
    · exact Or.inr
    · rintro (rfl | h)
      · assumption
      · exact h
  · simp [or_comm]

/-- Recording keeps a set free of repeats. -/
theorem nodup_insertMark {α : Type} [DecidableEq α] (m : α) {ms : List α} (h : ms.Nodup) :
    (insertMark m ms).Nodup := by
  unfold insertMark
  split
  · exact h
  · rename_i hm
    rw [List.nodup_append]
    refine ⟨h, List.nodup_singleton m, ?_⟩
    intro a ha b hb
    rw [List.mem_singleton] at hb
    subst hb
    rintro rfl
    exact hm ha

end Sys2Proof.Laws
end

