-- ==== Sys2Proof/Laws/Sequence.lean ====
section
/-!
SUPPORT. What the shared operations of the sequencer can do: accepting a request, one event, and the
delivery of a wire word. Later proofs cite these and unfold none of the operations.
-/

-- One theorem at a time: many theorems waiting on one definition would each hold a thread.
set_option Elab.async false

namespace Sys2Proof.Laws

open Sys2Proof.Machine

variable (s : State)

/-! ### `State.settle` and `State.accept` -/

theorem settle_idle (h : s.seq = .idle) : s.settle = s := by simp [State.settle, h]

theorem settle_live {es : List Event} {i : Nat} {w : EndWrite} (h : s.seq = .running es i w)
    (hi : i < es.length) : s.settle = s := by simp [State.settle, h, hi]

theorem settle_over {es : List Event} {i : Nat} {w : EndWrite} (h : s.seq = .running es i w)
    (hi : es.length ≤ i) : s.settle = s.finish w := by simp [State.settle, h, Nat.not_lt.mpr hi]

/-- Settling leaves the state as it is, or finishes the request that has no event left. -/
theorem settle_cases : s.settle = s ∨
    ∃ es i w, s.seq = .running es i w ∧ es.length ≤ i ∧ s.settle = s.finish w := by
  cases h : s.seq with
  | idle => exact .inl (settle_idle s h)
  | running es i w =>
    by_cases hi : i < es.length
    · exact .inl (settle_live s h hi)
    · exact .inr ⟨es, i, w, rfl, Nat.le_of_not_lt hi, settle_over s h (Nat.le_of_not_lt hi)⟩

@[simp] theorem settle_cfg : s.settle.cfg = s.cfg := by
  rcases settle_cases s with h | ⟨_, _, w, _, _, h⟩ <;> (rw [h]; try simp)

@[simp] theorem settle_dir : s.settle.dir = s.dir := by
  rcases settle_cases s with h | ⟨_, _, w, _, _, h⟩ <;> (rw [h]; try simp)

@[simp] theorem settle_lvl : s.settle.lvl = s.lvl := by
  rcases settle_cases s with h | ⟨_, _, w, _, _, h⟩ <;> (rw [h]; try simp)

@[simp] theorem settle_refused : s.settle.refused = s.refused := by
  rcases settle_cases s with h | ⟨_, _, w, _, _, h⟩ <;> (rw [h]; try simp)

@[simp] theorem settle_trace : s.settle.trace = s.trace := by
  rcases settle_cases s with h | ⟨_, _, w, _, _, h⟩ <;> (rw [h]; try simp)

@[simp] theorem settle_hostMem : s.settle.hostMem = s.hostMem := by
  rcases settle_cases s with h | ⟨_, _, w, _, _, h⟩ <;> (rw [h]; try simp)

@[simp] theorem settle_input : s.settle.input = s.input := by
  rcases settle_cases s with h | ⟨_, _, w, _, _, h⟩ <;> (rw [h]; try simp)

@[simp] theorem settle_rx : s.settle.rx = s.rx := by
  rcases settle_cases s with h | ⟨_, _, w, _, _, h⟩ <;> (rw [h]; try simp)

/-- A request with an event starts Running at index 0 (spec/10_state.md R27). -/
theorem accept_of_ne_nil {es : List Event} (w : EndWrite) (h : es ≠ []) :
    s.accept es w = { s with seq := .running es 0 w } := by
  have : 0 < es.length := List.length_pos_iff.mpr h
  exact settle_live _ rfl this

/-- A request without events is over at once. -/
theorem accept_nil (w : EndWrite) : s.accept [] w = { s with seq := .running [] 0 w }.finish w :=
  settle_over _ rfl (Nat.le_refl 0)

/-- A request without events and without an end write leaves an Idle block as it is. -/
theorem accept_nil_nothing (h : s.seq = .idle) : s.accept [] .nothing = s := by
  rw [accept_nil]
  cases s
  simp_all [State.finish]

/-- The check before the first transport marks nothing when there is no transport. -/
@[simp] theorem checkReady_nil (op : Byte) : s.checkReady op [] = s := by simp [State.checkReady]

/-- The check changes the fault marks alone. -/
theorem checkReady_cases (op : Byte) (es : List Event) :
    s.checkReady op es = s ∨ s.checkReady op es = s.raise (.preInitTransport op) := by
  unfold State.checkReady
  split
  · exact .inl rfl
  · exact .inr rfl

theorem transport_ne_nil (c : Config) (rs : Level) (b : Byte) : transport c rs b ≠ [] := by simp [transport]

theorem transport_length (c : Config) (rs : Level) (b : Byte) : (transport c rs b).length = 15 := rfl

theorem stringEvents_length (c : Config) (cs : List Byte) : (stringEvents c cs).length = 15 * cs.length := by
  induction cs with
  | nil => rfl
  | cons b cs ih =>
    have : stringEvents c (b :: cs) = charEvents c b ++ stringEvents c cs := rfl
    rw [this, List.length_append, ih, List.length_cons, charEvents, transport_length]
    omega

/-! ### The wire -/

/-- What the decoders of the wire answer is a row of the wire. -/
theorem decodeCommand_onWire {b : Byte} {i : Instr} (h : decodeCommand b = some i) :
    Instr.onWire i = true := by
  unfold decodeCommand at h
  split_ifs at h
  · cases h; rfl
  · cases h; rfl
  · split at h <;> first | (cases h; rfl) | cases h

theorem decodeWire_onWire {w : WireWord} {i : Instr} (h : decodeWire w = .ok i) :
    Instr.onWire i = true := by
  unfold decodeWire at h
  split_ifs at h
  · cases h; rfl
  · split at h
    · rename_i heq
      cases h
      exact decodeCommand_onWire heq
    · cases h

theorem decodeNibbleFor_onWire {p : Nibble} {n : BitVec 5} {i : Instr}
    (h : decodeNibbleFor p n = .ok i) : Instr.onWire i = true := by
  unfold decodeNibbleFor at h
  split_ifs at h
  cases h
  rfl

/-- The instruction a latch completes is a row of the wire. -/
theorem latch_onWire {c : Config} {rs : Level} {n : Nibble} {r : Receiver} {i : Instr}
    (h : (r.latch c rs n).2 = some i) : Instr.onWire i = true := by
  unfold Receiver.latch at h
  split at h
  · cases h
  · unfold Receiver.latchDetect8 at h
    split_ifs at h
    split at h
    · rename_i heq
      cases h
      exact decodeNibbleFor_onWire heq
    · cases h
  · split at h
    · cases h
    · unfold Receiver.latchLo at h
      split at h
      · split_ifs at h
        split at h
        · rename_i heq
          cases h
          exact decodeWire_onWire heq
        · cases h
      · cases h

theorem observe_onWire {c : Config} {x : Lines Level} {ev : Event} {r : Receiver} {i : Instr}
    (h : (r.observe c x ev).2 = some i) : Instr.onWire i = true := by
  unfold Receiver.observe at h
  split_ifs at h
  · exact latch_onWire h
  · cases ev <;> cases h

/-- A row of the wire touches the receiver alone (spec/20_memory.md R62, R64, R65). -/
theorem exec_onWire {i : Instr} (h : Instr.onWire i = true) :
    exec i s = .next (s.mapRx (Receiver.execute s.cfg i)) := by
  cases i <;> first | rfl | cases h

/-- One event in Running, as one function: the registers, the trace and the receiver follow the event,
the sequencer advances by one and the request ends with its last event (spec/10_state.md R27). -/
theorem stepEvent_eq (ev : Event) : stepEvent ev s = .next (s.react ev).advance.settle := by
  unfold stepEvent State.emit
  cases hi : (s.rx.observe s.cfg s.lvl ev).2 with
  | none =>
    have : s.rx.react s.cfg s.lvl ev = (s.rx.observe s.cfg s.lvl ev).1 := by
      unfold Receiver.react; split <;> simp_all
    simp only [execDelivered, onNext, State.react, this]
    rfl
  | some i =>
    have : s.rx.react s.cfg s.lvl ev = (s.rx.observe s.cfg s.lvl ev).1.execute s.cfg i := by
      unfold Receiver.react; split <;> simp_all
    simp only [execDelivered, exec_onWire _ (observe_onWire hi), onNext, State.react, this]
    rfl

/-! ### Every instruction answers a next state -/

/-- No instruction stops the machine (spec/60_exceptions.md R240). -/
theorem exec_next (i : Instr) : ∃ t, exec i s = .next t := by
  cases i <;> first
    | exact ⟨_, rfl⟩
    | (simp only [exec, execCreateChar]; split <;> exact ⟨_, rfl⟩)
    | (simp only [exec, execWriteFloat]; split <;> exact ⟨_, rfl⟩)

end Sys2Proof.Laws
end

