-- ==== Sys2Proof/Tests/Slice0.lean ====
section
/-!
SUPPORT. The model's own tests. Expected results are those of spec/95_test_vectors.md (its vector is
named in each docstring) or are worked out by hand from the rule named. `witness_<Statement>` shows
that the hypotheses of the obligation <Statement> can be met together, clause by clause at the edges.
-/

-- One theorem at a time: many theorems waiting on one definition would each hold a thread.
set_option Elab.async false

namespace Sys2Proof.Tests

open Sys2Proof.Machine

/-! ### Small states -/

/-- The receiver as INIT leaves it (T-INIT-3), but for the memories, which are ⊥ here. -/
def fourRx : Receiver :=
  { Receiver.powerOn Config.standard with
    rmode := .four, ac := some 0x00#7, fset := some 0x28#8, dctl := some 0x0F#8, entry := some 0x06#8
    gap := 0, need := 37 }

/-- An Idle block with a session, its lines outputs, beside that receiver. -/
def four : State :=
  { State.reset with
    ready := true, dir := ⟨.output, .output, .output, .output, .output, .output⟩, rx := fourRx }

/-- That state with the address counter at `a`. -/
def fourAt (a : BitVec 7) : State := { four with rx := { fourRx with ac := some a } }

/-- That state with the address counter at `a` of CGRAM. -/
def fourCgram (a : BitVec 7) : State := { four with rx := { fourRx with ac := some a, target := .cgram } }

/-- Host memory of spec/95_test_vectors.md, the table of WRITE_STR. -/
def strings : State := (four.poke 0x0100 [0x48#8, 0x69#8, 0x00#8]).poke 0xFFFE [0x41#8, 0x42#8]

/-- The 18-byte host memory of T-STR-5. -/
def smallMemory : State :=
  ({ four with cfg := { Config.standard with hostMemSize := 0x12 } }).poke 0x10 [0x41#8, 0x42#8]

/-- A configuration with RS and E both on (B, 0) (T-FA-7). -/
def clash : Config :=
  { Config.standard with pinmap := { standardPinmap with rs := ⟨.b, 0⟩, e := ⟨.b, 0⟩ } }

/-- A property of the state one step leads to; false where the step stops. -/
def stepHas (s : State) (p : State → Bool) : Bool :=
  match step s with
  | .next t => p t
  | .fault _ => false
  | .refused _ => false

/-- One step of `s` with the request `i` issued starts exactly the events `es`. -/
def starts (s : State) (i : Instr) (es : List Event) : Bool :=
  stepHas (s.issue i) fun t => decide (t.seq.pending = es)

/-- One step of `s` with the request `i` issued leaves an Idle block without any event. -/
def silent (s : State) (i : Instr) : Bool :=
  stepHas (s.issue i) fun t => decide (t.seq = .idle ∧ t.trace = [] ∧ t.faults = [] ∧ t.refused = [])

/-- A property of the receiver after one wire instruction. -/
def wireHas (s : State) (i : Instr) (p : Receiver → Bool) : Bool :=
  match exec i s with
  | .next t => p t.rx
  | .fault _ => false
  | .refused _ => false

/-! ### Well-formedness: an ill-formed term for each check -/

theorem test_wf_reserved10 : Instr.wellFormed (.reserved10 0x20#8) = false := by decide
theorem test_wf_reserved20 : Instr.wellFormed (.reserved20 0x40#8) = false := by decide
theorem test_wf_reserved40 : Instr.wellFormed (.reserved40 0x3F#8) = false := by decide
theorem test_wf_reserved80 : Instr.wellFormed (.reserved80 0x7F#8) = false := by decide
theorem test_wf_accepts : Instr.wellFormed (.reserved80 0xFF#8) = true
    ∧ Instr.wellFormed (.goTo 255#8 255#8) = true := by decide
theorem test_wf_pinmap : PinMap.wellFormed clash.pinmap = false := by decide
theorem test_wf_config_pins : Config.wellFormed clash = false := by decide
theorem test_wf_config_cols : Config.wellFormed { Config.standard with displayCols := 19 } = false := by
  decide
/-- A pin on a port that PORTS lacks, a pin number that is not below PINS_PER_PORT. -/
theorem test_wf_config_pin_exists : Config.wellFormed { Config.standard with ports := [.b] } = false ∧
    Config.wellFormed { Config.standard with pinsPerPort := 5 } = false := by decide
/-- A line without a base; a slot outside the 64 bytes of CGRAM. -/
theorem test_wf_config_counts : Config.wellFormed { Config.standard with displayLines := 5 } = false ∧
    Config.wellFormed { Config.standard with cgramSlots := 9 } = false := by decide
theorem test_wf_config_standard : Config.wellFormed Config.standard = true := by decide

/-! ### Decoding: words written out from R91, R55, R64 and R62 -/

theorem test_decode_init : decode (.request [0x01#8]) = .ok .init := by decide
theorem test_decode_sendCmd : decode (.request [0x02#8, 0x80#8]) = .ok (.sendCmd 0x80#8) := by decide
theorem test_decode_sendChar : decode (.request [0x03#8, 0x41#8]) = .ok (.sendChar 0x41#8) := by decide
theorem test_decode_hpw : decode (.request [0x04#8, 0xF5#8]) = .ok (.hpw 0xF5#8) := by decide
/-- P1, request 2: line first, then cell. -/
theorem test_decode_goTo : decode (.request [0x05#8, 0x01#8, 0x05#8]) = .ok (.goTo 1#8 5#8) := by decide
/-- P3, request 6. -/
theorem test_decode_goToClear :
    decode (.request [0x06#8, 0x02#8, 0x00#8, 0x03#8]) = .ok (.goToClear 2#8 0#8 3#8) := by decide
/-- P2, request 2: the slot, then bitmap[0] first. -/
theorem test_decode_createChar :
    decode (.request [0x07#8, 0x02#8, 0x0E#8, 0x11#8, 0x12#8, 0x1F#8, 0x13#8, 0x14#8, 0x15#8, 0x00#8])
      = .ok (.createChar 2#8 ⟨0x0E#8, 0x11#8, 0x12#8, 0x1F#8, 0x13#8, 0x14#8, 0x15#8, 0x00#8⟩) := by decide
theorem test_decode_shift : decode (.request [0x08#8, 0x01#8, 0x00#8]) = .ok (.shift 1#8 0#8) := by decide
/-- P1, request 3: little-endian. -/
theorem test_decode_writeStr : decode (.request [0x09#8, 0x00#8, 0x01#8]) = .ok (.writeStr 0x0100#16) := by
  decide
/-- P1, request 5. -/
theorem test_decode_writeDec :
    decode (.request [0x0A#8, 0xD6#8, 0xFF#8, 0xFF#8, 0xFF#8]) = .ok (.writeDec 0xFFFFFFD6#32) := by decide
/-- P3, request 5: 12345 = 0x3039. -/
theorem test_decode_writeDec4 :
    decode (.request [0x0B#8, 0x39#8, 0x30#8, 0x00#8, 0x00#8]) = .ok (.writeDec4 12345#32) := by decide
theorem test_decode_writeBin : decode (.request [0x0C#8, 0xAA#8]) = .ok (.writeBin 0xAA#8) := by decide
theorem test_decode_writeBinShort : decode (.request [0x0D#8, 0x05#8]) = .ok (.writeBinShort 5#8) := by
  decide
theorem test_decode_writeHex : decode (.request [0x0E#8, 0x0F#8]) = .ok (.writeHex 0x0F#8) := by decide
/-- P2, request 5. -/
theorem test_decode_writeFloat :
    decode (.request [0x0F#8, 0x79#8, 0xE9#8, 0xF6#8, 0x42#8]) = .ok (.writeFloat 0x42F6E979#32) := by decide
theorem test_decode_reserved00 : decode (.request [0x00#8]) = .ok .reserved00 := by decide
theorem test_decode_reserved10 : decode (.request [0x1F#8]) = .ok (.reserved10 0x1F#8) := by decide
theorem test_decode_reserved20 : decode (.request [0x3F#8]) = .ok (.reserved20 0x3F#8) := by decide
theorem test_decode_reserved40 : decode (.request [0x7F#8]) = .ok (.reserved40 0x7F#8) := by decide
theorem test_decode_reserved80 : decode (.request [0xFF#8]) = .ok (.reserved80 0xFF#8) := by decide
theorem test_decode_wireClear : decode (.wire 0b000000001#9) = .ok .wireClear := by decide
theorem test_decode_wireEntryMode : decode (.wire 0b000000110#9) = .ok .wireEntryMode := by decide
theorem test_decode_wireDisplayCtrl : decode (.wire 0b000001111#9) = .ok .wireDisplayCtrl := by decide
theorem test_decode_wireCursorShiftLeft : decode (.wire 0b000010000#9) = .ok .wireCursorShiftLeft := by
  decide
theorem test_decode_wireCursorShiftRight : decode (.wire 0b000010100#9) = .ok .wireCursorShiftRight := by
  decide
theorem test_decode_wireDisplayShiftLeft : decode (.wire 0b000011000#9) = .ok .wireDisplayShiftLeft := by
  decide
theorem test_decode_wireDisplayShiftRight : decode (.wire 0b000011100#9) = .ok .wireDisplayShiftRight := by
  decide
theorem test_decode_wireFunctionSet : decode (.wire 0b000101000#9) = .ok .wireFunctionSet := by decide
theorem test_decode_wireSetCgramAddr :
    decode (.wire 0b001010110#9) = .ok (.wireSetCgramAddr 0b010110#6) := by decide
theorem test_decode_wireSetDdramAddr :
    decode (.wire 0b011000101#9) = .ok (.wireSetDdramAddr 0b1000101#7) := by decide
theorem test_decode_wireData : decode (.wire 0b101000001#9) = .ok (.wireData 0x41#8) := by decide
theorem test_decode_wireInitNibble : decode (.nibble 0b00010#5) = .ok .wireInitNibble := by decide
/-- R64, the last row: 0x22 with rs = 0 has no modelled meaning (70_reset_and_hazards.md R272). -/
theorem test_decode_unmodelled : decode (.wire 0x022#9) = .error (.unmodelledCommand 0x022#9) := by decide
/-- R62: the same nibble with rs = 1 is no instruction (T-INIT-5). -/
theorem test_decode_nibble_rs : decode (.nibble 0b10010#5) = .error (.notInitNibble 0b10010#5) := by decide
theorem test_decode_truncated : decode (.request [0x05#8, 0x01#8]) = .error (.truncatedRequest 0x05#8) := by
  decide

/-! ### The host's two questions -/

theorem test_table_request : decodeTableWord 8 0x07
    = some (.createChar 0#8 ⟨0#8, 0#8, 0#8, 0#8, 0#8, 0#8, 0#8, 0#8⟩) := by decide
theorem test_table_wire : decodeTableWord 16 0x1FF = some (.wireData 0xFF#8) := by decide
theorem test_table_nibble : decodeTableWord 5 0x02 = some .wireInitNibble := by decide
theorem test_place_request :
    stepHas (State.reset.withFetchWord 8 0x01) (fun t => decide (t.seq.pending.length = 77)) = true := by
  decide +kernel
/-- A placed wire word is what the next step's latch delivers: `ac` is set. -/
theorem test_place_wire :
    stepHas (State.reset.withFetchWord 16 0x0C5) (fun t => decide (t.rx.ac = some 0x45#7)) = true := by
  decide +kernel
theorem test_place_nibble :
    stepHas (State.reset.withFetchWord 5 0x02) (fun t => decide (t.rx.rmode = .four)) = true := by
  decide +kernel

/-! ### The requests, one step each -/

/-- T-INIT-1: events 7 to 16. -/
theorem test_init : stepHas (State.reset.issue .init) (fun t =>
    decide ((t.seq.pending.drop 6).take 10 = [.waitMs 35, .lvl .d4 false, .lvl .d5 true, .lvl .d6 false,
      .lvl .d7 false, .lvl .e true, .waitMs 1, .lvl .e false, .lvl .rs false, .lvl .d4 false])) = true := by
  decide +kernel
/-- T-INIT-1, T-INIT-2: the last event is 77, a fall of E, and `ready` follows it. -/
theorem test_init_end :
    stepHas { four with ready := false, seq := .running (initEvents Config.standard) 76 .sessionReady }
      (fun t => decide (t.ready = true ∧ t.seq = .idle ∧ t.trace = [.lvl .e false])) = true := by
  decide +kernel
/-- T-TR-1. -/
theorem test_sendCmd : starts four (.sendCmd 0x80#8)
    [.lvl .rs false, .lvl .d4 false, .lvl .d5 false, .lvl .d6 false, .lvl .d7 true, .lvl .e true,
     .waitMs 1, .lvl .e false, .lvl .d4 false, .lvl .d5 false, .lvl .d6 false, .lvl .d7 false,
     .lvl .e true, .waitMs 1, .lvl .e false] = true := by decide +kernel
/-- T-TR-4: the mark is there at acceptance. -/
theorem test_sendCmd_before_init : stepHas (State.reset.issue (.sendCmd 0x80#8))
    (fun t => decide (t.faults = [.preInitTransport 0x02#8])) = true := by decide +kernel
/-- T-TR-2. -/
theorem test_sendChar : starts four (.sendChar 0x41#8)
    [.lvl .rs true, .lvl .d4 false, .lvl .d5 false, .lvl .d6 true, .lvl .d7 false, .lvl .e true,
     .waitMs 1, .lvl .e false, .lvl .d4 true, .lvl .d5 false, .lvl .d6 false, .lvl .d7 false,
     .lvl .e true, .waitMs 1, .lvl .e false] = true := by decide +kernel
/-- T-HPW-2. -/
theorem test_hpw : starts four (.hpw 0xF5#8)
    [.lvl .d4 true, .lvl .d5 false, .lvl .d6 true, .lvl .d7 false] = true := by decide +kernel
/-- T-HPW-3: no PreInitTransport; the first event marks LevelOnNonOutput. -/
theorem test_hpw_before_init :
    stepHas { State.reset with seq := .running (hpwEvents 0x0A#8) 0 .nothing }
      (fun t => decide (t.faults = [.levelOnNonOutput .d4])) = true := by decide +kernel
/-- T-SRC-7. -/
theorem test_goTo : starts four (.goTo 2#8 0#8) (transactionEvents Config.standard false 0xC0#8) = true := by
  decide +kernel
/-- R6: the bases are parameters, so a build with other ones sends other commands. -/
theorem test_goTo_other_bases :
    (goToEvents { Config.standard with lineBases := [0x20#8], displayLines := 1 } 1#8 3#8).take 5
      = [.lvl .rs false, .lvl .d4 false, .lvl .d5 true, .lvl .d6 false, .lvl .d7 true] ∧
    goToEvents { Config.standard with lineBases := [0x20#8], displayLines := 1 } 2#8 3#8 = [] := by
  decide +kernel
/-- T-GO-16. -/
theorem test_goTo_bad_line : silent State.reset (.goTo 5#8 0#8) = true := by decide +kernel
/-- T-GC-1. -/
theorem test_goToClear : starts four (.goToClear 1#8 3#8 2#8)
    (transactionEvents Config.standard false 0x83#8 ++ charTransactions Config.standard [0x20#8, 0x20#8]) = true := by decide +kernel
/-- T-GC-3. -/
theorem test_goToClear_bad_line : starts four (.goToClear 5#8 0#8 2#8)
    (charTransactions Config.standard [0x20#8, 0x20#8]) = true := by decide +kernel
/-- T-CC-1, slot 2: the first 32 events and the last 16. -/
theorem test_createChar :
    stepHas (four.issue (.createChar 2#8 ⟨0x0E#8, 0x11#8, 0x11#8, 0x1F#8, 0x11#8, 0x11#8, 0x11#8, 0x00#8⟩))
      (fun t => decide (t.seq.pending.take 32 =
          transactionEvents Config.standard false 0x50#8 ++ [.waitUs 50] ++ transactionEvents Config.standard true 0x0E#8 ++ [.waitUs 100]
        ∧ t.seq.pending.drop 144 = transactionEvents Config.standard false 0x80#8 ++ [.waitUs 100])) = true := by
  decide +kernel
/-- T-FA-6. -/
theorem test_createChar_slot :
    stepHas (State.reset.issue (.createChar 8#8 ⟨0#8, 0#8, 0#8, 0#8, 0#8, 0#8, 0#8, 0#8⟩))
      (fun t => decide (t.refused = [.slotOutOfRange 8#8] ∧ t.faults = [] ∧ t.seq = .idle)) = true := by
  decide +kernel
/-- T-SH-2. -/
theorem test_shift : starts four (.shift 1#8 0#8) (transactionEvents Config.standard false 0x14#8) = true := by
  decide +kernel
/-- T-SH-5. -/
theorem test_shift_invalid : silent State.reset (.shift 0#8 7#8) = true := by decide +kernel
/-- T-STR-2. -/
theorem test_writeStr : starts strings (.writeStr 0x0100#16) (charTransactions Config.standard [0x48#8, 0x69#8]) = true := by
  decide +kernel
/-- T-STR-5. -/
theorem test_writeStr_end : stepHas (smallMemory.issue (.writeStr 0x12#16))
    (fun t => decide (t.faults = [.stringOutOfBounds 0x12] ∧ t.seq = .idle)) = true := by decide +kernel
/-- T-DEC-5. -/
theorem test_writeDec : starts four (.writeDec 0xFFFFFFD6#32)
    (charTransactions Config.standard [0x2D#8, 0x34#8, 0x32#8]) = true := by decide +kernel
/-- T-DEC-10. -/
theorem test_writeDec_min : starts four (.writeDec 0x80000000#32)
    (charTransactions Config.standard [0x2D#8, 0x32#8, 0x31#8, 0x34#8, 0x37#8, 0x34#8, 0x38#8, 0x33#8, 0x36#8, 0x34#8,
      0x38#8]) = true := by decide +kernel
/-- T-D4-8. -/
theorem test_writeDec4 : starts four (.writeDec4 4294967295#32)
    (charTransactions Config.standard [0x37#8, 0x32#8, 0x39#8, 0x35#8]) = true := by decide +kernel
/-- T-BIN-4. -/
theorem test_writeBin : starts four (.writeBin 0x5A#8)
    (charTransactions Config.standard [0x30#8, 0x31#8, 0x30#8, 0x31#8, 0x31#8, 0x30#8, 0x31#8, 0x30#8]) = true := by
  decide +kernel
/-- T-BS-4. -/
theorem test_writeBinShort : starts four (.writeBinShort 0x05#8)
    (charTransactions Config.standard [0x31#8, 0x30#8, 0x31#8]) = true := by decide +kernel
/-- T-BS-1. -/
theorem test_writeBinShort_zero : silent State.reset (.writeBinShort 0x00#8) = true := by decide +kernel
/-- T-SRC-6, T-HEX-2: hexadecimal letters are upper case. -/
theorem test_writeHex : starts four (.writeHex 0x9A#8) (charTransactions Config.standard [0x39#8, 0x41#8]) = true := by
  decide +kernel
/-- T-FLT-16: "100.000". -/
theorem test_writeFloat : starts four (.writeFloat 0x42C80083#32)
    (charTransactions Config.standard [0x31#8, 0x30#8, 0x30#8, 0x2E#8, 0x30#8, 0x30#8, 0x30#8]) = true := by decide +kernel
/-- T-FA-5. -/
theorem test_writeFloat_nan : stepHas (State.reset.issue (.writeFloat 0x7FC00000#32))
    (fun t => decide (t.faults = [.floatOutOfRange 0x7FC00000#32] ∧ t.seq = .idle)) = true := by
  decide +kernel
/-- T-FLT-8 and T-FLT-21: the fraction of the spec's own table. -/
theorem test_floatParts : floatParts 0xBE800000#32 = some (0, 250) ∧ floatParts 0x3BA3D70A#32 = some (0, 5)
    := by decide +kernel
/-- T-FA-1. -/
theorem test_reserved00 : stepHas { State.reset with input := [0x00#8] }
    (fun t => decide (t.refused = [.reservedOp 0x00#8] ∧ t.seq = .idle ∧ t.trace = [])) = true := by
  decide +kernel
/-- T-FA-2. -/
theorem test_reserved10 : stepHas { State.reset with input := [0x10#8] }
    (fun t => decide (t.refused = [.reservedOp 0x10#8])) = true := by decide +kernel
/-- P4, request 2. -/
theorem test_reserved20 : stepHas { State.reset with input := [0x20#8, 0x01#8] }
    (fun t => decide (t.refused = [.reservedOp 0x20#8] ∧ t.input = [0x01#8])) = true := by decide +kernel
theorem test_reserved40 : stepHas { State.reset with input := [0x40#8] }
    (fun t => decide (t.refused = [.reservedOp 0x40#8])) = true := by decide +kernel
/-- T-FA-2. -/
theorem test_reserved80 : stepHas { State.reset with input := [0xFF#8] }
    (fun t => decide (t.refused = [.reservedOp 0xFF#8])) = true := by decide +kernel
/-- T-FA-7. -/
theorem test_configInvalid : (State.powerOn clash).refused = [.configInvalid clash.pinmap] := by decide

/-! ### The wire instructions -/

/-- R64; `need` is EXEC_TIME.clear (T-GO-11). -/
theorem test_wireClear : wireHas (fourAt 0x45#7) .wireClear (fun r =>
    decide (r.ac = some 0 ∧ r.need = 1520 ∧ r.ddramAt 0x67 = some 0x20#8)) = true := by decide +kernel
theorem test_wireEntryMode : wireHas { four with rx := { fourRx with entry := none } } .wireEntryMode
    (fun r => decide (r.entry = some 0x06#8 ∧ r.need = 37)) = true := by decide +kernel
theorem test_wireDisplayCtrl : wireHas { four with rx := { fourRx with dctl := none } } .wireDisplayCtrl
    (fun r => decide (r.dctl = some 0x0F#8)) = true := by decide +kernel
/-- T-SH-1. -/
theorem test_wireCursorShiftLeft : wireHas (fourAt 0x05#7) .wireCursorShiftLeft
    (fun r => decide (r.ac = some 0x04#7)) = true := by decide +kernel
/-- T-SH-6, and the start of line 2 (R64). -/
theorem test_wireCursorShiftLeft_edge :
    wireHas (fourAt 0x00#7) .wireCursorShiftLeft (fun r => decide (r.ac = none)) = true ∧
    wireHas (fourAt 0x40#7) .wireCursorShiftLeft (fun r => decide (r.ac = none)) = true := by decide +kernel
/-- T-SH-7. -/
theorem test_wireCursorShiftRight : wireHas (fourAt 0x00#7) .wireCursorShiftRight
    (fun r => decide (r.ac = some 0x01#7)) = true := by decide +kernel
/-- R64: the last cell of line 4, and a CGRAM address. -/
theorem test_wireCursorShiftRight_edge :
    wireHas (fourAt 0x67#7) .wireCursorShiftRight (fun r => decide (r.ac = none)) = true ∧
    wireHas (fourCgram 0x05#7) .wireCursorShiftRight (fun r => decide (r.ac = none)) = true := by
  decide +kernel
/-- T-SH-3. -/
theorem test_wireDisplayShiftLeft : wireHas (fourAt 0x05#7) .wireDisplayShiftLeft
    (fun r => decide (r.shifted = true ∧ r.ac = some 0x05#7)) = true := by decide +kernel
/-- T-SH-4. -/
theorem test_wireDisplayShiftRight : wireHas (fourAt 0x05#7) .wireDisplayShiftRight
    (fun r => decide (r.shifted = true ∧ r.ac = some 0x05#7)) = true := by decide +kernel
theorem test_wireFunctionSet : wireHas { four with rx := { fourRx with fset := none } } .wireFunctionSet
    (fun r => decide (r.fset = some 0x28#8)) = true := by decide +kernel
/-- T-RX-2: SEND_CMD 0x78 selects CGRAM address 56. -/
theorem test_wireSetCgramAddr : wireHas four (.wireSetCgramAddr 56#6)
    (fun r => decide (r.ac = some 56#7 ∧ r.target = .cgram)) = true := by decide +kernel
/-- T-GO-9. -/
theorem test_wireSetDdramAddr : wireHas (fourCgram 0x05#7) (.wireSetDdramAddr 0x7F#7)
    (fun r => decide (r.ac = some 0x7F#7 ∧ r.target = .ddram)) = true := by decide +kernel
/-- T-RX-1: stored at 0x27, and `ac` is ⊥. -/
theorem test_wireData : wireHas (fourAt 0x27#7) (.wireData 0x41#8)
    (fun r => decide (r.ddramAt 0x27 = some 0x41#8 ∧ r.ac = none ∧ r.need = 41)) = true := by decide +kernel
/-- T-GO-8: an address without a cell. -/
theorem test_wireData_no_cell : wireHas (fourAt 0x28#7) (.wireData 0x41#8)
    (fun r => decide (r.rmode = .unknown)) = true := by decide +kernel
/-- R62. -/
theorem test_wireInitNibble : wireHas State.reset .wireInitNibble
    (fun r => decide (r.rmode = .four ∧ r.phase = .hi ∧ r.need = 37)) = true := by decide +kernel
/-- T-TR-4: the busy check of the first latch after power-on fails. -/
theorem test_latch_busy :
    stepHas { State.reset.beforeLatch false 0x8#4 with rx := { State.reset.rx with gap := 1000 } }
      (fun t => decide (t.rx.rmode = .unknown)) = true := by decide +kernel
/-- T-RX-6: RS changed inside a transaction. -/
theorem test_latch_rs_changed :
    (Receiver.latch Config.standard true 0x0#4 { fourRx with phase := .lo, hold := some 0x8#4, holdRs := some false }).1
      = Receiver.lost := by decide +kernel

/-- R62 and R66 read INIT_NIBBLE, which is a parameter (R6). -/
theorem test_latch_init_nibble :
    (Receiver.latch { Config.standard with initNibble := 0x3#4 } false 0x3#4
      { Receiver.powerOn Config.standard with gap := 15000 }).2 = some .wireInitNibble ∧
    (Receiver.latch { Config.standard with initNibble := 0x3#4 } false 0x2#4
      { Receiver.powerOn Config.standard with gap := 15000 }).1 = Receiver.lost := by decide +kernel
/-- R68, G16, U22: after a display shift the cells' content is ⊥, and the cursor is shown at `ac`. -/
theorem test_shown_after_shift :
    ({ fourRx with shifted := true, ac := some 0x05#7, ddram := [(5, 0x41#8)] } : Receiver).shownCursor
      = some 0x05#7 ∧
    ({ fourRx with shifted := true, ac := some 0x05#7, ddram := [(5, 0x41#8)] } : Receiver).shownCode
      Config.standard 1#8 5 = none ∧
    ({ fourRx with dctl := none } : Receiver).shownCursor = none := by decide +kernel

/-! ### The request notation (R103, R104) -/

theorem test_asm_goTo : (parseLine "GOTO 1, 5 ; text".toList).map (AsmLine.request 0#16)
    = some (.goTo 1#8 5#8) := by decide +kernel
theorem test_asm_shift : (parseLine "SHIFT RIGHT, CURSOR".toList).map (AsmLine.request 0#16)
    = some (.shift 1#8 0#8) := by decide +kernel
/-- T-FLT-1: the literal 123.456. -/
theorem test_asm_float : (parseLine "WRITE_FLOAT 123.456".toList).map (AsmLine.request 0#16)
    = some (.writeFloat 0x42F6E979#32) := by decide +kernel
theorem test_asm_setDdram : (parseLine "SET_DDRAM 0x45".toList).map (AsmLine.request 0#16)
    = some (.sendCmd 0xC5#8) := by decide +kernel

/-! ### Witnesses: the hypotheses of each statement can be met -/

/-- Of every statement whose only hypotheses are a well-formed PINMAP and an Idle sequencer:
PowerCycleSetsTheResetTable, HpwDrivesTheDataLines, SendCmdEmitsOneTransaction,
SendCharEmitsOneTransaction, InitRunsItsStrictSequence, WriteDecSendsBaseTenText,
WriteDec4SendsFourDigits, WriteBinSendsEightBits, WriteHexSendsTwoDigits,
ReservedOpIsRecordedAndNothingElse. -/
theorem witness_idle_block : PinMap.wellFormed four.cfg.pinmap = true ∧ four.seq = .idle ∧
    PinMap.wellFormed State.reset.cfg.pinmap = true ∧ State.reset.seq = .idle := by decide +kernel
/-- The op codes at the edges of the RESERVED ranges. -/
theorem witness_ReservedOpIsRecordedAndNothingElse : State.reset.seq = .idle ∧
    (0x00#8 = 0x00#8 ∨ 0x10 ≤ (0x00#8 : Byte).toNat) ∧ (0x10#8 = 0x00#8 ∨ 0x10 ≤ (0x10#8 : Byte).toNat) ∧
    (0xFF#8 = 0x00#8 ∨ 0x10 ≤ (0xFF#8 : Byte).toNat) := by decide +kernel
theorem witness_IdleStepRunsTheDecodedRequest :
    let s : State := { State.reset with input := [0x05#8, 0x02#8, 0x13#8, 0x01#8] }
    PinMap.wellFormed s.cfg.pinmap = true ∧ s.seq = .idle ∧
      decodeRequest s.input = .ok (.goTo 2#8 0x13#8, [0x01#8]) := by decide +kernel
/-- The second latch of a byte in Four mode: 0xC with rs = 0 held, 0x5 on the lines. -/
theorem witness_LatchStepRunsTheDecodedWireWord_byte :
    let s := four.place (.wire 0x0C5#9)
    PinMap.wellFormed s.cfg.pinmap = true ∧ s.seq = .running [.lvl .e false] 0 .nothing ∧
      [Event.lvl .e false][0]? = some (.lvl .e false) ∧ s.lvl.e = true ∧ s.rx.rmode = .four ∧
      s.rx.phase = .lo ∧ s.rx.hold = some 0xC#4 ∧ s.rx.holdRs = some s.lvl.rs ∧
      decodeWire (BitVec.ofBool s.lvl.rs ++ (0xC#4 ++ (0x5#4 : Nibble))) = .ok (.wireSetDdramAddr 0x45#7) := by
  decide +kernel
/-- The one latch of Detect8 mode, with exactly the wait it needs. -/
theorem witness_LatchStepRunsTheDecodedWireWord_nibble :
    let s := State.reset.place (.nibble 0b00010#5)
    s.seq = .running [.lvl .e false] 0 .nothing ∧ s.lvl.e = true ∧ s.rx.rmode = .detect8 ∧
      s.rx.gap = s.rx.need ∧ s.lvl.rs = false ∧ s.cfg.initNibble = 0x2#4 ∧
      BitVec.ofBool s.lvl.d7 ++ (BitVec.ofBool s.lvl.d6 ++
        (BitVec.ofBool s.lvl.d5 ++ BitVec.ofBool s.lvl.d4)) = (0x2#4 : Nibble) := by decide +kernel
theorem witness_IdleStepWithoutARequest :
    State.reset.input = [] ∧ decodeRequest [0x05#8, 0x02#8] = .error (.truncatedRequest 0x05#8) := by
  decide +kernel
theorem witness_IllFormedPinmapHasNoRun : ¬ [clash.pinmap.rs, clash.pinmap.e, clash.pinmap.d4,
    clash.pinmap.d5, clash.pinmap.d6, clash.pinmap.d7].Nodup := by decide +kernel
theorem witness_DecodeOfEncodeIsTheInstruction : Instr.wellFormed (.reserved20 0x20#8) = true ∧
    Instr.wellFormed (.reserved20 0x3F#8) = true ∧ Instr.wellFormed .init = true := by decide
theorem witness_DecodedBitsAreTheEncoding :
    decodeRequest [0x0D#8, 0x05#8, 0x01#8] = .ok (.writeBinShort 0x05#8, [0x01#8]) ∧
    decodeWire 0x100#9 = .ok (.wireData 0x00#8) ∧ decodeNibble 0b00010#5 = .ok .wireInitNibble := by decide
theorem witness_IssuedRequestsRunInOrder : PinMap.wellFormed four.cfg.pinmap = true ∧ four.seq = .idle ∧
    four.input = [] ∧ Instr.wellFormed (.hpw 0x0A#8) = true ∧
    encode (.hpw 0x0A#8) = .request [0x04#8, 0x0A#8] ∧ encode .init = .request [0x01#8] := by decide +kernel
/-- One word of each outcome: 'A', and a command the reference does not model. -/
theorem witness_TransactionDeliversItsByte : four.seq = .idle ∧ four.rx.takesByte four.cfg ∧
    decodeWire (BitVec.ofBool true ++ 0x41#8) = .ok (.wireData 0x41#8) ∧
    decodeWire (BitVec.ofBool false ++ 0x00#8) = .error (.unmodelledCommand 0x000#9) := by
  unfold Receiver.takesByte; decide +kernel
/-- Of the clauses about the values of R6: the configuration is that of State.reset. -/
theorem witness_standard_parameters : four.cfg = State.reset.cfg := by decide +kernel
/-- The longest wait the statement admits is met with equality by a receiver that needs 36 ms. -/
theorem witness_InitBringsTheReceiverUp :
    let s : State := { State.reset with rx := { State.reset.rx with need := 36000 } }
    PinMap.wellFormed s.cfg.pinmap = true ∧ s.seq = .idle ∧ s.cfg.cmdFunctionSet = 0x28#8 ∧
      s.cfg.cmdDisplayCtrl = 0x0F#8 ∧ s.cfg.cmdClear = 0x01#8 ∧ s.cfg.cmdEntryMode = 0x06#8 ∧
      s.rx.rmode = .detect8 ∧ s.lvl.rs = false ∧ s.rx.need ≤ s.rx.gap + 1000 * (s.cfg.tPowerMs + s.cfg.tPulseMs) ∧
      s.cfg.execOtherUs ≤ 1000 * s.cfg.tPulseMs ∧
      s.cfg.execClearUs ≤ 1000 * (s.cfg.tClearMs + s.cfg.tPulseMs) := by decide +kernel
theorem witness_InitOnAFourBitReceiverLosesIt : four.seq = .idle ∧ four.cfg.initNibble = 0b0010#4 ∧
    four.cfg.cmdFunctionSet = 0x28#8 ∧ four.rx.rmode = .four ∧ four.rx.phase = .hi := by decide +kernel
/-- T-INIT-5. -/
theorem witness_InitWithRsHighLosesTheReceiver :
    let s := State.powerOn { Config.standard with gpioResetLevel := true }
    PinMap.wellFormed s.cfg.pinmap = true ∧ s.seq = .idle ∧ s.rx.rmode = .detect8 ∧ s.lvl.rs = true := by
  decide +kernel
/-- Line 4: cell 0x2B is the last with bit 7, 0x2C and 0xAB the range without it, 0xAC wraps past it. -/
theorem witness_AddressCalculatorBytes : (0x54#8 : Byte).toNat < 0x80 ∧
    (5#8 = 0#8 ∨ 4 < (5#8 : Byte).toNat) ∧ (0x2B#8 : Byte).toNat < 0x80 - (0x54#8 : Byte).toNat ∧
    addrCmd 0x54#8 0x2B#8 = 0xFF#8 ∧ addrCmd 0x54#8 0x2C#8 = 0x00#8 ∧ addrCmd 0x54#8 0xAB#8 = 0x7F#8 ∧
    addrCmd 0x54#8 0xAC#8 = 0x80#8 := by decide +kernel
theorem witness_CgramAddressByte : (7#8 : Byte).toNat ≤ 7 ∧ (0#8 : Byte).toNat ≤ 7 := by decide
/-- A display of four lines with bases for three: line 4 is within DISPLAY_LINES and has no base. -/
def threeBases : State := { four with cfg := { four.cfg with lineBases := [0x00#8, 0x40#8, 0x14#8] } }
/-- Log entry 23. -/
theorem witness_a_line_without_a_base : PinMap.wellFormed threeBases.cfg.pinmap = true ∧
    threeBases.seq = .idle ∧ threeBases.cfg.lineBases.length < (4#8 : Byte).toNat ∧
    (4#8 : Byte).toNat ≤ threeBases.cfg.displayLines := by decide +kernel
/-- The first and the last line, and the ones beside them. -/
theorem witness_GotoSendsItsAddressCommand : 1 ≤ (1#8 : Byte).toNat ∧
    four.cfg.lineBases[(1#8 : Byte).toNat - 1]? = some 0x00#8 ∧
    (4#8 : Byte).toNat ≤ four.cfg.displayLines ∧
    four.cfg.lineBases[(4#8 : Byte).toNat - 1]? = some 0x54#8 ∧ (0#8 : Byte).toNat = 0 ∧
    four.cfg.displayLines < (5#8 : Byte).toNat := by decide +kernel
theorem witness_GotoClearSendsCommandAndSpaces : PinMap.wellFormed four.cfg.pinmap = true ∧
    four.seq = .idle ∧ (4#8 : Byte).toNat ≤ four.cfg.displayLines ∧
    four.cfg.lineBases[(4#8 : Byte).toNat - 1]? = some 0x54#8 ∧
    four.cfg.displayLines < (5#8 : Byte).toNat ∧ (0#8 : Byte).toNat = 0 ∧ (1#8 : Byte) ≠ 0#8 := by
  decide +kernel
/-- R162, R163: an invalid line with count 0 changes nothing; a line without a base is one too (log
entry 23), and with count 1 it sends one space, as line 5 does in T-GC-3. -/
theorem witness_GotoClearSendsCommandAndSpaces_counts :
    exec (.goToClear 5#8 0#8 0#8) four = .next four ∧
    exec (.goToClear 4#8 0#8 0#8) threeBases = .next threeBases ∧
    exec (.goToClear 4#8 0#8 1#8) threeBases =
      .next ((threeBases.preMarked 0x06#8).starting (transactionEvents threeBases.cfg true 0x20#8)) :=
  ⟨rfl, rfl, rfl⟩
theorem witness_CreateCharSendsTheGlyph : PinMap.wellFormed four.cfg.pinmap = true ∧ four.seq = .idle ∧
    (7#8 : Byte).toNat < four.cfg.cgramSlots ∧ four.cfg.cgramSlots ≤ (8#8 : Byte).toNat := by decide +kernel
theorem witness_CreateCharStoresTheGlyph : PinMap.wellFormed four.cfg.pinmap = true ∧ four.seq = .idle ∧
    (7#8 : Byte).toNat ≤ 7 ∧ (7#8 : Byte).toNat < four.cfg.cgramSlots ∧
    four.rx.takesByte four.cfg ∧ four.rx.entry = some 0x06#8 ∧
    four.cfg.execOtherUs ≤ four.cfg.tCgsetUs + 1000 * four.cfg.tPulseMs ∧
    four.cfg.execDataUs ≤ four.cfg.tCgbyteUs + 1000 * four.cfg.tPulseMs := by
  unfold Receiver.takesByte; decide +kernel
theorem witness_ShiftSendsItsCommand : PinMap.wellFormed four.cfg.pinmap = true ∧ four.seq = .idle ∧
    ((1#8 = 0#8 ∨ 1#8 = 1#8) ∧ (1#8 = 0#8 ∨ (1#8 : Byte) = 1#8)) ∧
    ¬ ((2#8 = 0#8 ∨ 2#8 = 1#8) ∧ (0#8 = 0#8 ∨ (0#8 : Byte) = 1#8)) := by decide +kernel
/-- The last cell of line 4, and the last of line 1 on a display of 40 columns. -/
theorem witness_CharacterAppearsWhereGotoPointed :
    let wide : Config := { Config.standard with displayCols := 40 }
    PinMap.wellFormed four.cfg.pinmap = true ∧ four.seq = .idle ∧
    (4#8 : Byte).toNat ≤ four.cfg.displayLines ∧
    four.cfg.lineBases[(4#8 : Byte).toNat - 1]? = some 0x54#8 ∧
    (19#8 : Byte).toNat < four.cfg.displayCols ∧ (0x54#8 : Byte).toNat + (19#8 : Byte).toNat ≤ 0x67 ∧
    wide.lineBases[(1#8 : Byte).toNat - 1]? = some 0x00#8 ∧ (39#8 : Byte).toNat < wide.displayCols ∧
    (0x00#8 : Byte).toNat + (39#8 : Byte).toNat ≤ 0x27 ∧ four.rx.takesByte four.cfg ∧
    four.rx.visible = true ∧ four.rx.entry = some 0x06#8 ∧
    four.cfg.execOtherUs ≤ 1000 * four.cfg.tPulseMs := by
  unfold Receiver.takesByte; decide +kernel
/-- "Hi" at 0x0100, an empty string at 0x0200, the null reference. -/
theorem witness_WriteStrSendsTheString : PinMap.wellFormed strings.cfg.pinmap = true ∧
    strings.seq = .idle ∧ (0x0100#16 : Word16) ≠ 0#16 ∧ 0x0100 + 2 < strings.cfg.hostMemSize ∧
    (∀ k, k < 2 → [0x48#8, 0x69#8][k]? = some (HostMem.read strings.hostMem (0x0100 + k))) ∧
    0x00#8 ∉ [0x48#8, 0x69#8] ∧ HostMem.read strings.hostMem (0x0100 + 2) = 0x00#8 ∧
    HostMem.read strings.hostMem (0x0200 + 0) = 0x00#8 := by decide +kernel
/-- The scan that starts at the end, and the one that reaches it after two characters. -/
theorem witness_WriteStrWithoutTerminatorIsMarked : PinMap.wellFormed smallMemory.cfg.pinmap = true ∧
    smallMemory.seq = .idle ∧ (0x10#16 : Word16) ≠ 0#16 ∧
    smallMemory.cfg.hostMemSize ≤ (0x12#16 : Word16).toNat ∧ 0x10 + 2 = smallMemory.cfg.hostMemSize ∧
    (∀ k, k < 2 → [0x41#8, 0x42#8][k]? = some (HostMem.read smallMemory.hostMem (0x10 + k))) ∧
    0x00#8 ∉ [0x41#8, 0x42#8] := by decide +kernel
/-- The highest bit at either end. -/
theorem witness_WriteBinShortSendsNoLeadingZero : PinMap.wellFormed four.cfg.pinmap = true ∧
    four.seq = .idle ∧ (0x80#8 : Byte).getLsbD 7 = true ∧ (0x01#8 : Byte).getLsbD 0 = true ∧
    (∀ j, 0 < j → (0x01#8 : Byte).getLsbD j = false) := by
  refine ⟨by decide, rfl, by decide, by decide, ?_⟩
  intro j hj
  by_cases h : j < 8
  · interval_cases j <;> rfl
  · exact BitVec.getLsbD_of_ge _ _ (by omega)
/-- T-FLT-26 and T-FLT-27, the ends of the range; T-FLT-8 has a fraction. -/
theorem witness_WriteFloatSendsIntegerPointAndThreeDigits : PinMap.wellFormed four.cfg.pinmap = true ∧
    four.seq = .idle ∧ F32.ofBits 0xCF000000#32 = .fin true (2147483648 * 2 ^ 149) ∧
    -2147483648 ≤ signed true (2147483648 * 2 ^ 149 / 2 ^ 149) ∧
    F32.ofBits 0x4EFFFFFF#32 = .fin false (2147483520 * 2 ^ 149) ∧
    signed false (2147483520 * 2 ^ 149 / 2 ^ 149) ≤ 2147483647 := by decide +kernel
theorem witness_FloatFractionIsExactButForOneRounding :
    F32.ofBits 0xBE800000#32 = .fin true (2 ^ 147) ∧ -2147483648 ≤ signed true (2 ^ 147 / 2 ^ 149) ∧
    signed true (2 ^ 147 / 2 ^ 149) ≤ 2147483647 := by decide +kernel
/-- T-FLT-28, T-FLT-29, T-FLT-31, T-FLT-32. -/
theorem witness_WriteFloatOutOfRangeIsMarked : four.seq = .idle ∧
    F32.ofBits 0x7FC00000#32 = .nan ∧ F32.ofBits 0xFF800000#32 = .inf true ∧
    F32.ofBits 0x4F000000#32 = .fin false (2147483648 * 2 ^ 149) ∧
    ¬ (signed false (2147483648 * 2 ^ 149 / 2 ^ 149) ≤ 2147483647) ∧
    F32.ofBits 0xCF000001#32 = .fin true (2147483904 * 2 ^ 149) ∧
    ¬ (-2147483648 ≤ signed true (2147483904 * 2 ^ 149 / 2 ^ 149)) := by decide +kernel
/-- Of every statement about a wire instruction in Four mode: WireClearResult, WireModeBytesResult,
WireDisplayShiftResult, WireSetAddressResult, WireDataResult, WireCursorShiftResult. -/
theorem witness_four_mode : four.rx.rmode = .four := by decide +kernel
theorem witness_WireCursorShiftResult : (fourAt 0x67#7).rx.target = .ddram ∧
    (fourAt 0x67#7).rx.ac = some 0x67#7 ∧
    ((0x41 ≤ (0x67#7 : BitVec 7).toNat ∧ (0x67#7 : BitVec 7).toNat ≤ 0x67)) ∧
    ¬ ((0x67#7 : BitVec 7).toNat ≤ 0x26 ∨
      (0x40 ≤ (0x67#7 : BitVec 7).toNat ∧ (0x67#7 : BitVec 7).toNat ≤ 0x66)) ∧
    (0x26#7 : BitVec 7).toNat ≤ 0x26 ∧
    ¬ ((0x01 ≤ (0x40#7 : BitVec 7).toNat ∧ (0x40#7 : BitVec 7).toNat ≤ 0x27) ∨
      (0x41 ≤ (0x40#7 : BitVec 7).toNat ∧ (0x40#7 : BitVec 7).toNat ≤ 0x67)) ∧
    (fourCgram 0x05#7).rx.target = .cgram := by decide +kernel
theorem witness_WireDataResult : (fourAt 0x67#7).rx.entry = some 0x06#8 ∧
    (fourAt 0x67#7).rx.ac = some 0x67#7 ∧ (fourAt 0x67#7).rx.target = .ddram ∧
    (0x40 ≤ (0x67#7 : BitVec 7).toNat ∧ (0x67#7 : BitVec 7).toNat ≤ 0x67) ∧
    ¬ ((0x28#7 : BitVec 7).toNat ≤ 0x27 ∨
      (0x40 ≤ (0x28#7 : BitVec 7).toNat ∧ (0x28#7 : BitVec 7).toNat ≤ 0x67)) ∧
    (fourCgram 0x3F#7).rx.target = .cgram ∧ (fourCgram 0x3F#7).rx.ac = some 0x3F#7 ∧
    ({ fourRx with entry := none } : Receiver).entry ≠ some 0x06#8 := by decide +kernel
theorem witness_WireInitNibbleResult : State.reset.rx.rmode = .detect8 := by decide +kernel
/-- A first latch with exactly the wait it needs, and one with a microsecond less; in Detect8 too little
wait, rs = 1 and another nibble; a second latch with another RS, and the byte 0x22 of R272. -/
theorem witness_LatchHoldsOrLosesTheReceiver :
    let s := (four.beforeLatch false 0x8#4)
    PinMap.wellFormed s.cfg.pinmap = true ∧ s.seq = .running [.lvl .e false] 0 .nothing ∧
      [Event.lvl .e false][0]? = some (.lvl .e false) ∧ s.lvl.e = true ∧ s.rx.rmode = .four ∧
      s.rx.phase = .hi ∧ ({ s.rx with gap := 36 } : Receiver).gap < s.rx.need ∧
      s.rx.need ≤ ({ s.rx with gap := 37 } : Receiver).gap ∧
      State.reset.rx.rmode = .detect8 ∧ State.reset.rx.gap < State.reset.rx.need ∧
      (four.beforeLatch true 0x2#4).lvl.rs = true ∧ (0x3#4 : Nibble) ≠ State.reset.cfg.initNibble ∧
      (four.place (.wire 0x022#9)).rx.rmode = .four ∧ (four.place (.wire 0x022#9)).rx.phase = .lo ∧
      (four.place (.wire 0x022#9)).rx.hold = some 0x2#4 ∧
      (four.place (.wire 0x022#9)).rx.holdRs = some false ∧ false ≠ true ∧
      decodeWire (BitVec.ofBool false ++ (0x2#4 ++ (0x2#4 : Nibble))) =
        .error (.unmodelledCommand 0x022#9) := by decide +kernel
theorem witness_UnknownReceiverStaysUnknown :
    let s : State := { four with rx := Receiver.lost, seq := .running [.lvl .e false] 0 .nothing }
    s.rx.rmode = .unknown ∧ Instr.onWire .wireClear = true ∧ stepHas s (fun _ => true) = true := by
  decide +kernel
theorem witness_CharacterAfterHostClearLosesTheReceiver : PinMap.wellFormed four.cfg.pinmap = true ∧
    four.seq = .idle ∧ four.rx.takesByte four.cfg ∧
    1000 * four.cfg.tPulseMs < four.cfg.execClearUs := by
  unfold Receiver.takesByte; decide +kernel
theorem witness_AcceptingARequestFrame : Instr.onWire (.reserved00) = false ∧
    ∃ t, exec .reserved00 four = .next t ∧ t.refused ≠ four.refused := ⟨rfl, _, rfl, by decide⟩
/-- A level, a direction and a wait, and a level on an input. -/
theorem witness_EventStepEmitsTheNextEvent :
    let es : List Event := [.dir .e .output, .lvl .d4 true, .waitMs 1]
    let s : State := { State.reset with seq := .running es 1 .nothing }
    PinMap.wellFormed s.cfg.pinmap = true ∧ es[1]? = some (.lvl .d4 true) ∧
      Lines.get s.dir .d4 ≠ .output ∧ 1 + 1 < es.length ∧ ¬ (Event.lvl .d4 true = .lvl .e false) := by
  decide +kernel
/-- A wait of 2 ms and one of 45 us in Detect8, in Four and in Unknown. -/
theorem witness_EventStepEmitsTheNextEvent_waits :
    let es : List Event := [.waitMs 2, .waitUs 45]
    PinMap.wellFormed State.reset.cfg.pinmap = true ∧ es[0]? = some (.waitMs 2) ∧
      es[1]? = some (.waitUs 45) ∧ State.reset.rx.rmode = .detect8 ∧ four.rx.rmode = .four ∧
      Receiver.lost.rmode = .unknown := by decide +kernel
theorem witness_PreInitTransportIsMarkedOnce : encode (.sendCmd 0x80#8) = .request [0x02#8, 0x80#8] ∧
    State.reset.seq = .idle ∧ State.reset.ready = false ∧ Instr.sendCmd 0x80#8 ≠ .init ∧
    (∀ v, Instr.sendCmd 0x80#8 ≠ .hpw v) ∧
    ∃ t, exec (.sendCmd 0x80#8) State.reset = .next t ∧ t.seq ≠ .idle ∧
      FaultMark.preInitTransport 0x02#8 ∈ t.faults ∧
      FaultMark.preInitTransport 0x02#8 ∉ State.reset.faults := by
  refine ⟨rfl, rfl, rfl, by decide, by simp, _, rfl, ?_, ?_, ?_⟩ <;> decide +kernel
theorem witness_DataIsStableWhileEnableIsHigh : Instr.onWire (.sendChar 0x41#8) = false ∧
    ∃ t, exec (.sendChar 0x41#8) four = .next t ∧ t.seq = .running (charEvents four.cfg 0x41#8) 0 .nothing :=
  ⟨rfl, _, rfl, by decide +kernel⟩
/-- The step that makes the session: one new event, and `ready` set. -/
theorem witness_EveryStepOnlyAdds :
    ∃ t, step { four with ready := false, seq := .running [.waitMs 1] 0 .sessionReady } = .next t ∧
      t.trace = [.waitMs 1] ∧ t.ready = true := ⟨_, rfl, by decide +kernel, by decide +kernel⟩
theorem witness_OnlyInitMakesTheSession :
    (∃ t, step { four with ready := false, seq := .running [.waitMs 1] 0 .sessionReady } = .next t ∧
      t.ready = true) ∧
    ∃ t, exec .init four = .next t ∧ t.seq = .running (initEvents four.cfg) 0 .sessionReady :=
  ⟨⟨_, rfl, by decide +kernel⟩, _, rfl, by decide +kernel⟩
theorem witness_BlockNeverReadsTheReceiver :
    (∃ t, step (four.issue .init) = .next t) ∧
    step { four with input := [0x05#8] } = .refused (.truncatedRequest 0x05#8) :=
  ⟨⟨_, rfl⟩, rfl⟩
theorem witness_SmallStepsServeTheWholeRequest : PinMap.wellFormed four.cfg.pinmap = true ∧
    charEvents four.cfg 0x41#8 ≠ [] := by decide +kernel
/-- A step that stores a byte in DDRAM. -/
theorem witness_StepsKeepMemoryCanonical : (four.place (.wire 0x141#9)).memoryWf = true ∧
    stepHas (four.place (.wire 0x141#9)) (fun t => decide (t.rx.ddram = [(0, 0x41#8)])) = true := by
  decide +kernel
theorem witness_StepsKeepTheMachineConsistent : (four.place (.wire 0x141#9)).seq.live = true ∧
    (four.place (.wire 0x141#9)).marksDistinct = true ∧
    (four.place (.wire 0x141#9)).rx.consistent = true ∧
    stepHas (four.place (.wire 0x141#9)) (fun _ => true) = true := by decide +kernel
/-- A step in Running from a state that replays. -/
theorem witness_ReceiverIsTheReplayOfTheTrace :
    ({ State.reset with seq := .running [.waitMs 35] 0 .nothing } : State).replayed ∧
    stepHas { State.reset with seq := .running [.waitMs 35] 0 .nothing }
      (fun t => decide (t.rx.gap = 35000)) = true := ⟨rfl, by decide +kernel⟩

end Sys2Proof.Tests
end

/-! SUPPORT. The receiver and the block do not reach each other: what the block does commutes with any
change of the receiver (spec/20_memory.md R69), and an Unknown receiver is out of reach of the wire
until a power-on (R67). -/

namespace Sys2Proof.Proofs

open Sys2Proof.Machine Sys2Proof.Laws

section ReceiverChange

variable (s : State) (f : Receiver → Receiver)

/-! ### The block's operations commute with a change of the receiver -/

theorem finish_mapRx (w : EndWrite) : (s.mapRx f).finish w = (s.finish w).mapRx f := by
  cases w <;> rfl

theorem settle_mapRx : (s.mapRx f).settle = s.settle.mapRx f := by
  cases h : s.seq with
  | idle => rw [settle_idle s h, settle_idle (s.mapRx f) h]
  | running es i w =>
    by_cases hi : i < es.length
    · rw [settle_live s h hi, settle_live (s.mapRx f) h hi]
    · have hi : es.length ≤ i := Nat.le_of_not_lt hi
      rw [settle_over s h hi, settle_over (s.mapRx f) h hi, finish_mapRx]

theorem accept_mapRx (es : List Event) (w : EndWrite) :
    (s.mapRx f).accept es w = (s.accept es w).mapRx f :=
  settle_mapRx { s with seq := .running es 0 w } f

theorem checkReady_mapRx (op : Byte) (es : List Event) :
    (s.mapRx f).checkReady op es = (s.checkReady op es).mapRx f := by
  unfold State.checkReady
  rw [mapRx_ready]
  split <;> rfl

theorem acceptTransports_mapRx (op : Byte) (es : List Event) (w : EndWrite) :
    (s.mapRx f).acceptTransports op es w = (s.acceptTransports op es w).mapRx f := by
  unfold State.acceptTransports
  rw [checkReady_mapRx, accept_mapRx]

/-- A request is a rule of the block: it goes the same way with any receiver, and leaves it alone. -/
theorem exec_request_mapRx {i : Instr} (h : Instr.onWire i = false) :
    exec i (s.mapRx f) = onNext (State.mapRx f) (exec i s) := by
  cases i with
  | init | hpw _ => exact congrArg Host.Outcome.next (accept_mapRx s f _ _)
  | sendCmd _ | sendChar _ | goTo _ _ | goToClear _ _ _ | shift _ _ | writeStr _ | writeDec _
  | writeDec4 _ | writeBin _ | writeBinShort _ | writeHex _ =>
    exact congrArg Host.Outcome.next (acceptTransports_mapRx s f _ _ _)
  | createChar slot bitmap =>
    by_cases hslot : s.cfg.cgramSlots ≤ slot.toNat
    · simp only [exec, execCreateChar, mapRx_cfg, hslot, ↓reduceIte]
      exact congrArg Host.Outcome.next (accept_mapRx (s.refuse _) f _ _)
    · simp only [exec, execCreateChar, mapRx_cfg, hslot, ↓reduceIte]
      exact congrArg Host.Outcome.next (acceptTransports_mapRx s f _ _ _)
  | writeFloat x =>
    simp only [exec, execWriteFloat]
    split
    · exact congrArg Host.Outcome.next (accept_mapRx (s.raise _) f _ _)
    · exact congrArg Host.Outcome.next (acceptTransports_mapRx s f _ _ _)
  | reserved00 | reserved10 _ | reserved20 _ | reserved40 _ | reserved80 _ =>
    exact congrArg Host.Outcome.next (accept_mapRx (s.refuse _) f _ _)
  | wireClear | wireEntryMode | wireDisplayCtrl | wireCursorShiftLeft | wireCursorShiftRight
  | wireDisplayShiftLeft | wireDisplayShiftRight | wireFunctionSet | wireSetCgramAddr _
  | wireSetDdramAddr _ | wireData _ | wireInitNibble => cases h

/-- With another receiver an instruction goes the same way, up to the receiver it leaves. -/
theorem exec_mapRx (i : Instr) :
    ∃ g, exec i (s.mapRx f) = onNext (State.mapRx g) (exec i s) := by
  cases h : Instr.onWire i with
  | false => exact ⟨f, exec_request_mapRx s f h⟩
  | true =>
    refine ⟨fun _ => (f s.rx).execute s.cfg i, ?_⟩
    rw [exec_onWire _ h, exec_onWire _ h]
    rfl

theorem stepIdle_mapRx : ∃ g, stepIdle (s.mapRx f) = onNext (State.mapRx g) (stepIdle s) := by
  unfold stepIdle
  rw [mapRx_input]
  split
  case h_1 i rest _ => exact exec_mapRx { s with input := rest } f i
  case h_2 => exact ⟨f, rfl⟩
  case h_3 => exact ⟨f, rfl⟩

theorem advance_mapRx : (s.mapRx f).advance = s.advance.mapRx f := rfl

/-- An event changes the block the same way whatever the receiver makes of it. -/
theorem react_mapRx (ev : Event) :
    (s.mapRx f).react ev = (s.react ev).mapRx fun _ => (f s.rx).react s.cfg s.lvl ev := rfl

theorem stepEvent_mapRx (ev : Event) :
    ∃ g, stepEvent ev (s.mapRx f) = onNext (State.mapRx g) (stepEvent ev s) := by
  rw [stepEvent_eq, stepEvent_eq, react_mapRx, advance_mapRx, settle_mapRx]
  exact ⟨_, rfl⟩

/-- R69 for one step: changing the receiver before the step changes the receiver alone after it. -/
theorem step_mapRx : ∃ g, step (s.mapRx f) = onNext (State.mapRx g) (step s) := by
  unfold step stepSequencer
  rw [mapRx_cfg, mapRx_seq]
  by_cases hp : PinMap.wellFormed s.cfg.pinmap = true
  · rw [if_pos hp, if_pos hp]
    cases s.seq with
    | idle => exact stepIdle_mapRx s f
    | running es i w =>
      cases h : es[i]? with
      | some ev => simpa only [h] using stepEvent_mapRx s f ev
      | none => simpa only [h] using ⟨f, congrArg Host.Outcome.next (settle_mapRx s f)⟩
  · rw [if_neg hp, if_neg hp]
    exact ⟨f, rfl⟩

end ReceiverChange

/-- Settles O55: the step commutes with putting any other receiver in the state. -/
theorem blockNeverReadsTheReceiver : Obligations.BlockNeverReadsTheReceiver := by
  intro s r
  obtain ⟨g, hg⟩ := step_mapRx s (fun _ => r)
  refine ⟨fun t ht => ⟨g t.rx, ?_⟩, fun q hq => ?_⟩
  · rw [ht] at hg
    exact hg
  · rw [hq] at hg
    exact hg

/-! ### An Unknown receiver -/

/-- A request leaves the receiver as it is: it commutes with setting the receiver to what it is. -/
theorem exec_request_rx {i : Instr} {s t : State} (h : Instr.onWire i = false)
    (ht : exec i s = .next t) : t.rx = s.rx := by
  have hfix : exec i s = onNext (State.mapRx fun _ => s.rx) (exec i s) :=
    exec_request_mapRx s (fun _ => s.rx) h
  rw [ht] at hfix
  injection hfix with hfix
  calc t.rx = (t.mapRx fun _ => s.rx).rx := congrArg State.rx hfix
    _ = s.rx := rfl

section Unknown

variable {r : Receiver} (hr : r.rmode = .unknown)
include hr

theorem deliver_unknown (us : Nat) (effect : Receiver → Receiver) : r.deliver us effect = r := by
  simp [Receiver.deliver, hr]

theorem enterFour_unknown (us : Nat) : r.enterFour us = r := by simp [Receiver.enterFour, hr]

theorem wait_unknown (us : Nat) : r.wait us = r := by simp [Receiver.wait, hr]

theorem latch_unknown (c : Config) (rs : Level) (n : Nibble) : r.latch c rs n = (r, none) := by
  simp [Receiver.latch, hr]

theorem execute_unknown (c : Config) (i : Instr) : r.execute c i = r := by
  cases i with
  | wireClear | wireEntryMode | wireDisplayCtrl | wireCursorShiftLeft | wireCursorShiftRight
  | wireDisplayShiftLeft | wireDisplayShiftRight | wireFunctionSet | wireSetCgramAddr _
  | wireSetDdramAddr _ | wireData _ => simp only [Receiver.execute, deliver_unknown hr]
  | wireInitNibble => exact enterFour_unknown hr _
  | _ => rfl

theorem observe_unknown (c : Config) (x : Lines Level) (ev : Event) :
    r.observe c x ev = (r, none) := by
  unfold Receiver.observe
  split
  · exact latch_unknown hr c _ _
  · cases ev with
    | waitMs n => exact congrArg (·, none) (wait_unknown hr _)
    | waitUs n => exact congrArg (·, none) (wait_unknown hr _)
    | dir _ _ | lvl _ _ => rfl

theorem react_unknown (c : Config) (x : Lines Level) (ev : Event) : r.react c x ev = r := by
  simp [Receiver.react, observe_unknown hr]

theorem known_unknown : r.known = none := by simp [Receiver.known, hr]

theorem ddramAt_unknown (a : Nat) : r.ddramAt a = none := by
  simp [Receiver.ddramAt, known_unknown hr]

theorem cgramAt_unknown (a : Nat) : r.cgramAt a = none := by
  simp [Receiver.cgramAt, known_unknown hr]

theorem cursor_unknown : r.cursor = none := by simp [Receiver.cursor, known_unknown hr]

theorem cursorAt_unknown (c : Config) (line : Byte) (cell : Nat) :
    r.cursorAt c line cell = false := by
  simp [Receiver.cursorAt, cursor_unknown hr]

theorem visible_unknown : r.visible = false := by simp [Receiver.visible, hr]

theorem shownCode_unknown (c : Config) (line : Byte) (cell : Nat) :
    r.shownCode c line cell = none := by
  simp [Receiver.shownCode, visible_unknown hr]

theorem shownGlyph_unknown (c : Config) (line : Byte) (cell : Nat) :
    r.shownGlyph c line cell = none := by
  simp [Receiver.shownGlyph, shownCode_unknown hr]

theorem shownCursor_unknown : r.shownCursor = none := by
  simp [Receiver.shownCursor, cursor_unknown hr]

end Unknown

section UnknownSteps

variable {s : State} (hs : s.rx.rmode = .unknown)
include hs

/-- The wire cannot change an Unknown receiver, and a wire instruction changes nothing else. -/
theorem exec_onWire_unknown {i : Instr} (h : Instr.onWire i = true) : exec i s = .next s := by
  rw [exec_onWire s h]
  exact congrArg (fun r => Host.Outcome.next { s with rx := r }) (execute_unknown hs s.cfg i)

theorem exec_rx_unknown {i : Instr} {t : State} (ht : exec i s = .next t) : t.rx = s.rx := by
  cases h : Instr.onWire i with
  | false => exact exec_request_rx h ht
  | true =>
    rw [exec_onWire_unknown hs h] at ht
    cases ht
    rfl

theorem stepIdle_rx_unknown {t : State} (ht : stepIdle s = .next t) : t.rx = s.rx := by
  unfold stepIdle at ht
  split at ht
  case h_1 i rest _ => exact exec_rx_unknown (s := { s with input := rest }) hs ht
  case h_2 => cases ht
  case h_3 => cases ht; rfl

theorem stepEvent_rx_unknown {ev : Event} {t : State} (ht : stepEvent ev s = .next t) :
    t.rx = s.rx := by
  rw [stepEvent_eq] at ht
  cases ht
  simp [react_unknown hs]

theorem step_rx_unknown {t : State} (ht : step s = .next t) : t.rx = s.rx := by
  unfold step stepSequencer at ht
  split at ht
  · split at ht
    · exact stepIdle_rx_unknown hs ht
    · split at ht
      · exact stepEvent_rx_unknown hs ht
      · cases ht
        exact settle_rx s
  · cases ht

end UnknownSteps

/-- Settles O47: the wire and every step find an Unknown receiver and leave it, each view hides it, and
a power-on puts `Receiver.powerOn` in its place. -/
theorem unknownReceiverStaysUnknown : Obligations.UnknownReceiverStaysUnknown := by
  refine ⟨fun i s hs hi => exec_onWire_unknown hs hi, fun s t hs ht => step_rx_unknown hs ht, ?_,
    fun s => ⟨rfl, rfl⟩⟩
  intro c r line cell hr
  exact ⟨known_unknown hr, ddramAt_unknown hr cell, cgramAt_unknown hr cell, cursor_unknown hr,
    cursorAt_unknown hr c line cell, shownCode_unknown hr c line cell,
    shownGlyph_unknown hr c line cell, shownCursor_unknown hr⟩

end Sys2Proof.Proofs

/-! ### The CGRAM address byte (R98) -/

namespace Sys2Proof.Proofs

open Sys2Proof.Machine

section CgramAddress

variable {slot : Byte} (h : slot.toNat ≤ 7)
include h

/-- The sum does not wrap for the eight slots. -/
theorem cgCmd_toNat : (cgCmd slot).toNat = 0x40 + 8 * slot.toNat := by
  simp only [cgCmd, BitVec.toNat_add, BitVec.toNat_mul, BitVec.toNat_ofNat]
  omega

theorem cgCmd_slotBits_toNat : ((cgCmd slot).extractLsb' 3 3).toNat = slot.toNat := by
  rw [BitVec.extractLsb'_toNat, cgCmd_toNat h, Nat.shiftRight_eq_div_pow]
  omega

theorem cgCmd_lowBits : (cgCmd slot).extractLsb' 0 3 = 0#3 := by
  apply BitVec.eq_of_toNat_eq
  rw [BitVec.extractLsb'_toNat, cgCmd_toNat h, Nat.shiftRight_zero, BitVec.toNat_ofNat]
  omega

theorem cgCmd_topBits : (cgCmd slot).extractLsb' 6 2 = 0b01#2 := by
  apply BitVec.eq_of_toNat_eq
  rw [BitVec.extractLsb'_toNat, cgCmd_toNat h, Nat.shiftRight_eq_div_pow, BitVec.toNat_ofNat]
  omega

end CgramAddress

/-- Settles O21: value and bit fields of one slot's byte from its sum, which does not wrap; the eight
bytes by evaluation. -/
theorem cgramAddressByte : Obligations.CgramAddressByte :=
  ⟨fun _ h => ⟨cgCmd_toNat h, cgCmd_slotBits_toNat h, cgCmd_lowBits h, cgCmd_topBits h⟩, by decide⟩

end Sys2Proof.Proofs

/-! SUPPORT. The decoders and the encoder are inverse to each other (spec/30_encoding.md R91-R95,
spec/20_memory.md R55, R62, R64). -/

namespace Sys2Proof.Proofs

open Sys2Proof.Machine Sys2Proof.Laws

/-! ### Little-endian fields -/

@[simp] theorem le16_bytes (v : Word16) : le16 (v.extractLsb' 0 8) (v.extractLsb' 8 8) = v := by
  unfold le16
  rw [BitVec.extractLsb'_append_extractLsb'_eq_extractLsb' (by rfl)]
  exact BitVec.extractLsb'_eq_self

@[simp] theorem le32_bytes (v : Word32) :
    le32 (v.extractLsb' 0 8) (v.extractLsb' 8 8) (v.extractLsb' 16 8) (v.extractLsb' 24 8) = v := by
  unfold le32
  rw [BitVec.extractLsb'_append_extractLsb'_eq_extractLsb' (by rfl),
    BitVec.extractLsb'_append_extractLsb'_eq_extractLsb' (by rfl),
    BitVec.extractLsb'_append_extractLsb'_eq_extractLsb' (by rfl)]
  exact BitVec.extractLsb'_eq_self

@[simp] theorem bytes16_le16 (b0 b1 : Byte) : bytes16 (le16 b0 b1) = [b0, b1] := by
  simp only [bytes16, le16, List.cons.injEq, and_true]
  constructor <;> (ext i hi; grind)

@[simp] theorem bytes32_le32 (b0 b1 b2 b3 : Byte) :
    bytes32 (le32 b0 b1 b2 b3) = [b0, b1, b2, b3] := by
  simp only [bytes32, le32, List.cons.injEq, and_true]
  refine ⟨?_, ?_, ?_, ?_⟩ <;> (ext i hi; grind)

/-! ### RESERVED op codes -/

/-- The op codes that select no operation (R93). -/
theorem decodeOperands_reserved {op : Byte} (rest : List Byte) (h : op = 0x00#8 ∨ 0x10 ≤ op.toNat) :
    decodeOperands op rest = .ok (reservedRow op, rest) := by
  unfold decodeOperands
  split
  case h_16 => rfl
  all_goals simp at h

/-- The row of a RESERVED op code admits it and encodes to it alone. -/
theorem reservedRow_spec {op : Byte} (h : op = 0x00#8 ∨ 0x10 ≤ op.toNat) :
    (reservedRow op).wellFormed = true ∧ encode (reservedRow op) = .request [op] := by
  revert op; decide +kernel

theorem reservedRow_reserved10 {op : Byte} (h : Instr.wellFormed (.reserved10 op) = true) :
    0x10 ≤ op.toNat ∧ reservedRow op = .reserved10 op := by
  revert op; decide +kernel

theorem reservedRow_reserved20 {op : Byte} (h : Instr.wellFormed (.reserved20 op) = true) :
    0x10 ≤ op.toNat ∧ reservedRow op = .reserved20 op := by
  revert op; decide +kernel

theorem reservedRow_reserved40 {op : Byte} (h : Instr.wellFormed (.reserved40 op) = true) :
    0x10 ≤ op.toNat ∧ reservedRow op = .reserved40 op := by
  revert op; decide +kernel

theorem reservedRow_reserved80 {op : Byte} (h : Instr.wellFormed (.reserved80 op) = true) :
    0x10 ≤ op.toNat ∧ reservedRow op = .reserved80 op := by
  revert op; decide +kernel

/-! ### Operand fields: what each form reads -/

section Operands

variable {op : Byte} {bs rest : List Byte} {i : Instr}

theorem operand8_ok {k : Byte → Instr} (h : operand8 op k bs = .ok (i, rest)) :
    ∃ b, k b = i ∧ bs = b :: rest := by
  unfold operand8 at h
  split at h
  · cases h; exact ⟨_, rfl, rfl⟩
  · cases h

theorem operand8x2_ok {k : Byte → Byte → Instr} (h : operand8x2 op k bs = .ok (i, rest)) :
    ∃ b0 b1, k b0 b1 = i ∧ bs = b0 :: b1 :: rest := by
  unfold operand8x2 at h
  split at h
  · cases h; exact ⟨_, _, rfl, rfl⟩
  · cases h

theorem operand8x3_ok {k : Byte → Byte → Byte → Instr} (h : operand8x3 op k bs = .ok (i, rest)) :
    ∃ b0 b1 b2, k b0 b1 b2 = i ∧ bs = b0 :: b1 :: b2 :: rest := by
  unfold operand8x3 at h
  split at h
  · cases h; exact ⟨_, _, _, rfl, rfl⟩
  · cases h

theorem operand16_ok {k : Word16 → Instr} (h : operand16 op k bs = .ok (i, rest)) :
    ∃ v, k v = i ∧ bs = bytes16 v ++ rest := by
  unfold operand16 at h
  split at h
  · cases h; exact ⟨_, rfl, by simp⟩
  · cases h

theorem operand32_ok {k : Word32 → Instr} (h : operand32 op k bs = .ok (i, rest)) :
    ∃ v, k v = i ∧ bs = bytes32 v ++ rest := by
  unfold operand32 at h
  split at h
  · cases h; exact ⟨_, rfl, by simp⟩
  · cases h

theorem operandGlyph_ok {k : Byte → Bitmap → Instr} (h : operandGlyph op k bs = .ok (i, rest)) :
    ∃ slot m, k slot m = i ∧ bs = slot :: m.toList ++ rest := by
  unfold operandGlyph at h
  split at h
  · cases h; exact ⟨_, ⟨_, _, _, _, _, _, _, _⟩, rfl, rfl⟩
  · cases h

/-- What the operand decoder reads after `op` encodes to `op` and the bytes it has taken. -/
theorem decodeOperands_ok (h : decodeOperands op bs = .ok (i, rest)) :
    i.wellFormed = true ∧ ∃ p, encode i = .request (op :: p) ∧ bs = p ++ rest := by
  by_cases hr : op = 0x00#8 ∨ 0x10 ≤ op.toNat
  · rw [decodeOperands_reserved bs hr] at h
    cases h
    exact ⟨(reservedRow_spec hr).1, [], (reservedRow_spec hr).2, rfl⟩
  · unfold decodeOperands at h
    split at h
    case h_1 => cases h; exact ⟨rfl, [], rfl, rfl⟩
    case h_2 | h_3 | h_4 | h_12 | h_13 | h_14 =>
      obtain ⟨b, rfl, rfl⟩ := operand8_ok h
      exact ⟨rfl, [b], rfl, rfl⟩
    case h_5 | h_8 =>
      obtain ⟨b0, b1, rfl, rfl⟩ := operand8x2_ok h
      exact ⟨rfl, [b0, b1], rfl, rfl⟩
    case h_6 =>
      obtain ⟨b0, b1, b2, rfl, rfl⟩ := operand8x3_ok h
      exact ⟨rfl, [b0, b1, b2], rfl, rfl⟩
    case h_7 =>
      obtain ⟨slot, m, rfl, rfl⟩ := operandGlyph_ok h
      exact ⟨rfl, slot :: m.toList, rfl, rfl⟩
    case h_9 =>
      obtain ⟨v, rfl, rfl⟩ := operand16_ok h
      exact ⟨rfl, bytes16 v, rfl, rfl⟩
    case h_10 | h_11 | h_15 =>
      obtain ⟨v, rfl, rfl⟩ := operand32_ok h
      exact ⟨rfl, bytes32 v, rfl, rfl⟩
    case h_16 =>
      simp only [imp_false] at *
      bv_omega

theorem decodeRequest_ok (h : decodeRequest bs = .ok (i, rest)) :
    i.wellFormed = true ∧ ∃ p, encode i = .request p ∧ bs = p ++ rest := by
  cases bs with
  | nil => cases h
  | cons op bs =>
    obtain ⟨hwf, p, hp, rfl⟩ := decodeOperands_ok h
    exact ⟨hwf, op :: p, hp, rfl⟩

end Operands

/-- What the request decoder answers is no row of the wire. -/
theorem decodeRequest_offWire {bs rest : List Byte} {i : Instr}
    (h : decodeRequest bs = .ok (i, rest)) : i.onWire = false := by
  obtain ⟨_, p, hp, _⟩ := decodeRequest_ok h
  simp [Instr.onWire, hp]

/-! ### Wire words and the lone nibble -/

theorem ofBool_append_setWidth (w : WireWord) : BitVec.ofBool (w.getLsbD 8) ++ w.setWidth 8 = w := by
  ext i hi
  grind

theorem encode_of_decodeCommand {b : Byte} {i : Instr} (h : decodeCommand b = some i) :
    encode i = .wire (0#1 ++ b) := by
  unfold decodeCommand at h
  split_ifs at h with h7 h6
  · cases h
    refine congrArg Code.wire (BitVec.eq_of_getElem_eq fun i hi => ?_)
    grind
  · cases h
    refine congrArg Code.wire (BitVec.eq_of_getElem_eq fun i hi => ?_)
    grind
  · split at h <;> cases h <;> rfl

theorem encode_of_decodeWire {w : WireWord} {i : Instr} (h : decodeWire w = .ok i) :
    encode i = .wire w := by
  unfold decodeWire at h
  split_ifs at h with h8
  · cases h
    have hw := ofBool_append_setWidth w
    rw [h8] at hw
    exact congrArg Code.wire hw
  · split at h
    · rename_i hc
      cases h
      have hw := ofBool_append_setWidth w
      rw [Bool.eq_false_of_not_eq_true h8] at hw
      rw [encode_of_decodeCommand hc]
      exact congrArg Code.wire hw
    · cases h

theorem encode_of_decodeNibble {n : BitVec 5} {i : Instr} (h : decodeNibble n = .ok i) :
    encode i = .nibble n := by
  unfold decodeNibble decodeNibbleFor at h
  split_ifs at h with hn
  cases h
  rw [hn]
  rfl

/-- Settles O9: each decoder answers what encodes to the bits it has read. -/
theorem decodedBitsAreTheEncoding : Obligations.DecodedBitsAreTheEncoding :=
  ⟨fun _ _ _ h => decodeRequest_ok h, fun _ _ h => encode_of_decodeWire h,
    fun _ _ h => encode_of_decodeNibble h⟩

theorem decodeWire_data (b : Byte) : decodeWire (1#1 ++ b) = .ok (.wireData b) := by
  revert b; decide +kernel

theorem decodeWire_setCgramAddr (a : BitVec 6) :
    decodeWire (0b001#3 ++ a) = .ok (.wireSetCgramAddr a) := by
  revert a; decide +kernel

theorem decodeWire_setDdramAddr (a : BitVec 7) :
    decodeWire (0b01#2 ++ a) = .ok (.wireSetDdramAddr a) := by
  revert a; decide +kernel

/-! ### Decoding an encoding -/

theorem decodeRequest_reserved {op : Byte} {i : Instr} (rest : List Byte)
    (h : 0x10 ≤ op.toNat ∧ reservedRow op = i) : decodeRequest ([op] ++ rest) = .ok (i, rest) := by
  rw [← h.2]
  exact decodeOperands_reserved rest (.inr h.1)

/-- A request's bytes, followed by others, decode to the request and leave the others. -/
theorem decodeRequest_encode {i : Instr} {p : List Byte} (hwf : i.wellFormed = true)
    (hp : encode i = .request p) (rest : List Byte) : decodeRequest (p ++ rest) = .ok (i, rest) := by
  cases i with
  | init | sendCmd _ | sendChar _ | hpw _ | goTo _ _ | goToClear _ _ _ | createChar _ _ | shift _ _
  | writeBin _ | writeBinShort _ | writeHex _ | reserved00 => cases hp; rfl
  | writeStr v =>
    cases hp
    exact congrArg (fun v => Except.ok (Instr.writeStr v, rest)) (le16_bytes v)
  | writeDec v =>
    cases hp
    exact congrArg (fun v => Except.ok (Instr.writeDec v, rest)) (le32_bytes v)
  | writeDec4 v =>
    cases hp
    exact congrArg (fun v => Except.ok (Instr.writeDec4 v, rest)) (le32_bytes v)
  | writeFloat v =>
    cases hp
    exact congrArg (fun v => Except.ok (Instr.writeFloat v, rest)) (le32_bytes v)
  | reserved10 op =>
    cases hp
    exact decodeRequest_reserved rest (reservedRow_reserved10 hwf)
  | reserved20 op =>
    cases hp
    exact decodeRequest_reserved rest (reservedRow_reserved20 hwf)
  | reserved40 op =>
    cases hp
    exact decodeRequest_reserved rest (reservedRow_reserved40 hwf)
  | reserved80 op =>
    cases hp
    exact decodeRequest_reserved rest (reservedRow_reserved80 hwf)
  | _ => cases hp

theorem decodeWire_encode {i : Instr} {w : WireWord} (hw : encode i = .wire w) :
    decodeWire w = .ok i := by
  cases i with
  | wireSetCgramAddr a => cases hw; exact decodeWire_setCgramAddr a
  | wireSetDdramAddr a => cases hw; exact decodeWire_setDdramAddr a
  | wireData b => cases hw; exact decodeWire_data b
  | wireClear | wireEntryMode | wireDisplayCtrl | wireCursorShiftLeft | wireCursorShiftRight
  | wireDisplayShiftLeft | wireDisplayShiftRight | wireFunctionSet => cases hw; rfl
  | _ => cases hw

theorem decodeNibble_encode {i : Instr} {n : BitVec 5} (hn : encode i = .nibble n) :
    decodeNibble n = .ok i := by
  cases i with
  | wireInitNibble => cases hn; rfl
  | _ => cases hn

/-- Settles O8: by the three encodings; a request's bytes decode with nothing left over. -/
theorem decodeOfEncodeIsTheInstruction : Obligations.DecodeOfEncodeIsTheInstruction := by
  intro i hwf
  cases hc : encode i with
  | request p =>
    have h := decodeRequest_encode hwf hc []
    rw [List.append_nil] at h
    simp [decode, h]
  | wire w => exact decodeWire_encode hc
  | nibble n => exact decodeNibble_encode hc

/-- Settles O7: each of the ten words by evaluating its decoder. -/
theorem writtenOutWordsDecode : Obligations.WrittenOutWordsDecode := by
  unfold Obligations.WrittenOutWordsDecode
  decide

end Sys2Proof.Proofs

/-! SUPPORT. What one step can do, said once (spec/10_state.md R27): in Idle it accepts a request or
waits, in Running it emits one event. And what the acceptance of a request is, for each form of request
there is. -/

namespace Sys2Proof.Proofs

open Sys2Proof.Machine Sys2Proof.Laws

/-! ### The step -/

section Step

variable {s t : State}

theorem step_idle (hp : PinMap.wellFormed s.cfg.pinmap = true) (hs : s.seq = .idle) :
    step s = stepIdle s := by
  simp only [step, stepSequencer, hp, hs, ↓reduceIte]

theorem step_request {i : Instr} {rest : List Byte} (hp : PinMap.wellFormed s.cfg.pinmap = true)
    (hs : s.seq = .idle) (hd : decodeRequest s.input = .ok (i, rest)) :
    step s = exec i { s with input := rest } := by
  simp only [step_idle hp hs, stepIdle, hd]

theorem step_running {es : List Event} {k : Nat} {w : EndWrite} {ev : Event}
    (hp : PinMap.wellFormed s.cfg.pinmap = true) (hs : s.seq = .running es k w)
    (hev : es[k]? = some ev) : step s = .next (s.react ev).advance.settle := by
  simp only [step, stepSequencer, hp, hs, hev, ↓reduceIte, stepEvent_eq]

theorem step_ill_formed (hp : PinMap.wellFormed s.cfg.pinmap = false) :
    step s = .refused .configInvalid := by
  simp [step, stepSequencer, hp]

theorem seq_cases (s : State) : s.seq = .idle ∨ ∃ es k w, s.seq = .running es k w := by
  cases s.seq with
  | idle => exact .inl rfl
  | running es k w => exact .inr ⟨es, k, w, rfl⟩

/-- Everything a step that answers a next state can be. -/
theorem step_cases (h : step s = .next t) :
    (∃ i rest, s.seq = .idle ∧ decodeRequest s.input = .ok (i, rest) ∧
      exec i { s with input := rest } = .next t) ∨
    (∃ es k w ev, s.seq = .running es k w ∧ es[k]? = some ev ∧ t = (s.react ev).advance.settle) ∨
    t = s.settle := by
  cases hp : PinMap.wellFormed s.cfg.pinmap with
  | false => rw [step_ill_formed hp] at h; cases h
  | true =>
    obtain hs | ⟨es, k, w, hs⟩ := seq_cases s
    · rw [step_idle hp hs] at h
      unfold stepIdle at h
      split at h
      · rename_i i rest hd
        exact .inl ⟨i, rest, hs, hd, h⟩
      · cases h
      · cases h; exact .inr (.inr (settle_idle s hs).symm)
    · cases hev : es[k]? with
      | some ev =>
        rw [step_running hp hs hev] at h
        cases h
        exact .inr (.inl ⟨es, k, w, ev, hs, hev, rfl⟩)
      | none =>
        simp only [step, stepSequencer, hp, hs, hev, ↓reduceIte] at h
        cases h
        exact .inr (.inr rfl)

end Step

/-- Settles O3: the Idle branch of the step. -/
theorem idleStepRunsTheDecodedRequest : Obligations.IdleStepRunsTheDecodedRequest :=
  fun _ _ _ hp hs hd => step_request hp hs hd

/-- Settles O5: with no byte, and with a record cut short, the decoder answers no request. -/
theorem idleStepWithoutARequest : Obligations.IdleStepWithoutARequest := by
  intro s hp hs
  rw [step_idle hp hs]
  refine ⟨fun hin => ?_, fun op hop => ?_⟩
  · simp only [stepIdle, hin, decodeRequest]
  · simp only [stepIdle, hop]

/-- Settles O6: the configuration decides before the sequencer is looked at. -/
theorem illFormedPinmapHasNoRun : Obligations.IllFormedPinmapHasNoRun := by
  intro c hc
  have hp : PinMap.wellFormed c.pinmap = false := decide_eq_false hc
  refine ⟨by simp [State.powerOn, hp], ?_⟩
  rintro s rfl
  exact step_ill_formed hp

theorem issue_request {i : Instr} {p : List Byte} (s : State) (hp : encode i = .request p) :
    s.issue i = { s with input := s.input ++ p } := by
  simp only [State.issue, hp]

/-- Settles O10: the bytes issued first decode to the first request and leave the second's. -/
theorem issuedRequestsRunInOrder : Obligations.IssuedRequestsRunInOrder := by
  intro s i j p q hpin hs hin hwf hp hq
  have hi : s.issue i = { s with input := p } := by rw [issue_request s hp, hin]; rfl
  have hij : (s.issue i).issue j = { s with input := p ++ q } := by rw [hi, issue_request _ hq]
  constructor
  · have hd : decodeRequest p = .ok (i, []) := by simpa using decodeRequest_encode hwf hp []
    rw [hi, step_request (s := { s with input := p }) hpin hs hd, ← hin]
  · rw [hij]
    exact step_request (s := { s with input := p ++ q }) hpin hs (decodeRequest_encode hwf hp q)

/-! ### The acceptance of a request -/

/-- RS, the data lines and the directions stay while E is high, and E is low at both ends: the shape of
the lists that a request is made of (spec/40_transport.md R121). -/
def steadyFrom : Bool → List Event → Bool
  | high, [] => !high
  | high, ev :: rest =>
    !(high && ev.disturbs) && steadyFrom (if ev = .lvl .e true then true
      else if ev = .lvl .e false then false else high) rest

/-- Such a list is stable while E is high. -/
theorem stableWhileHigh_of_steadyFrom {high : Bool} {es : List Event}
    (h : steadyFrom high es = true) : stableWhileHigh high es = true := by
  induction es generalizing high with
  | nil => rfl
  | cons ev es ih =>
    simp only [steadyFrom, Bool.and_eq_true] at h
    simp only [stableWhileHigh, Bool.and_eq_true]
    exact ⟨h.1, ih h.2⟩

theorem steadyFrom_append {high : Bool} {es fs : List Event} (he : steadyFrom high es = true)
    (hf : steadyFrom false fs = true) : steadyFrom high (es ++ fs) = true := by
  induction es generalizing high with
  | nil =>
    cases high with
    | false => exact hf
    | true => cases he
  | cons ev es ih =>
    simp only [steadyFrom, Bool.and_eq_true] at he
    simp only [List.cons_append, steadyFrom, Bool.and_eq_true]
    exact ⟨he.1, ih he.2⟩

theorem steadyFrom_flatMap {α : Type} {f : α → List Event} (h : ∀ a, steadyFrom false (f a) = true)
    (as : List α) : steadyFrom false (as.flatMap f) = true := by
  induction as with
  | nil => rfl
  | cons a as ih => exact steadyFrom_append (h a) ih

theorem steadyFrom_hpwEvents (v : Byte) : steadyFrom false (hpwEvents v) = true := rfl

theorem steadyFrom_pulse (c : Config) : steadyFrom false (pulse c) = true := rfl

theorem steadyFrom_transport (c : Config) (rs : Level) (b : Byte) :
    steadyFrom false (transport c rs b) = true := by
  cases rs <;> rfl

theorem steadyFrom_stringEvents (c : Config) (cs : List Byte) :
    steadyFrom false (stringEvents c cs) = true :=
  steadyFrom_flatMap (steadyFrom_transport c true) cs

theorem steadyFrom_goToEvents (c : Config) (line cell : Byte) :
    steadyFrom false (goToEvents c line cell) = true := by
  unfold goToEvents
  split
  · exact steadyFrom_transport c false _
  · rfl

theorem steadyFrom_shiftEvents (c : Config) (dir kind : Byte) :
    steadyFrom false (shiftEvents c dir kind) = true := by
  unfold shiftEvents
  split
  · exact steadyFrom_transport c false _
  · rfl

theorem steadyFrom_createCharEvents (c : Config) (slot : Byte) (m : Bitmap) :
    steadyFrom false (createCharEvents c slot m) = true := by
  have hbytes := steadyFrom_flatMap (f := fun b => charEvents c b ++ [.waitUs c.tCgbyteUs])
    (fun b => steadyFrom_append (steadyFrom_transport c true b) rfl) m.toList
  exact steadyFrom_append (steadyFrom_append (steadyFrom_append
    (steadyFrom_append (steadyFrom_transport c false _) rfl) hbytes)
    (steadyFrom_transport c false _)) rfl

theorem steadyFrom_initEvents (c : Config) : steadyFrom false (initEvents c) = true := by
  have hcommand := steadyFrom_transport c false
  refine steadyFrom_append (steadyFrom_append (steadyFrom_append (steadyFrom_append
    (steadyFrom_append (steadyFrom_append (steadyFrom_append ?_ (hcommand _)) rfl) (hcommand _)) rfl)
    (hcommand _)) rfl) (hcommand _)
  exact steadyFrom_append (steadyFrom_append (by rfl) (steadyFrom_hpwEvents _)) (steadyFrom_pulse c)

/-- A request that a mark in `refused` can answer: CREATE_CHAR and the RESERVED rows (R231). -/
def Refusable (i : Instr) : Prop :=
  (∃ slot m, i = .createChar slot m) ∨ i = .reserved00 ∨
    ∃ op, i = .reserved10 op ∨ i = .reserved20 op ∨ i = .reserved40 op ∨ i = .reserved80 op

/-- The forms a request's acceptance has: `Acceptance s i t` says that accepting `i` in `s` gives
`t`. -/
inductive Acceptance (s : State) : Instr → State → Prop
  | init : Acceptance s .init (s.accept (initEvents s.cfg) .sessionReady)
  | hpw (v : Byte) : Acceptance s (.hpw v) (s.accept (hpwEvents v) .nothing)
  | transports {i : Instr} {op : Byte} {p : List Byte} {es : List Event} {w : EndWrite}
      (hop : encode i = .request (op :: p)) (hinit : i ≠ .init) (hhpw : ∀ v, i ≠ .hpw v)
      (hes : steadyFrom false es = true) (hw : w ≠ .sessionReady) :
      Acceptance s i (s.acceptTransports op es w)
  | refused {i : Instr} {m : RefusalMark} (hi : Refusable i) :
      Acceptance s i ((s.refuse m).accept [] .nothing)
  | float (x : Word32) :
      Acceptance s (.writeFloat x) ((s.raise (.floatOutOfRange x)).accept [] .nothing)

theorem scanString_ne_sessionReady (m : List Host.Cell) (n a : Nat) :
    (scanString m n a).2 ≠ .sessionReady := by
  induction n generalizing a with
  | zero => intro h; cases h
  | succ n ih =>
    simp only [scanString]
    split
    · intro h; cases h
    · exact ih (a + 1)

theorem stringAt_ne_sessionReady (s : State) (ref : Word16) : (stringAt s ref).2 ≠ .sessionReady := by
  unfold stringAt
  split
  · intro h; cases h
  · exact scanString_ne_sessionReady _ _ _

/-- A request that writes characters. -/
theorem Acceptance.chars {s : State} {i : Instr} {op : Byte} {p : List Byte} (cs : List Byte)
    {w : EndWrite} (hop : encode i = .request (op :: p)) (hinit : i ≠ .init) (hhpw : ∀ v, i ≠ .hpw v)
    (hw : w ≠ .sessionReady) : Acceptance s i (s.acceptChars op cs w) :=
  .transports hop hinit hhpw (steadyFrom_stringEvents s.cfg cs) hw

/-- Every request that is executed is accepted in one of those forms. -/
theorem acceptance_of_exec {i : Instr} {s t : State} (hi : i.onWire = false)
    (h : exec i s = .next t) : Acceptance s i t := by
  cases i with
  | init => cases h; exact .init
  | hpw v => cases h; exact .hpw v
  | sendCmd b => cases h; exact .transports rfl nofun nofun (steadyFrom_transport _ _ _) nofun
  | sendChar b => cases h; exact .transports rfl nofun nofun (steadyFrom_transport _ _ _) nofun
  | goTo line cell => cases h; exact .transports rfl nofun nofun (steadyFrom_goToEvents _ _ _) nofun
  | goToClear line cell count =>
    cases h
    exact .transports rfl nofun nofun
      (steadyFrom_append (steadyFrom_goToEvents _ _ _) (steadyFrom_stringEvents _ _)) nofun
  | createChar slot m =>
    simp only [exec, execCreateChar] at h
    split at h
    · cases h; exact .refused (.inl ⟨slot, m, rfl⟩)
    · cases h; exact .transports rfl nofun nofun (steadyFrom_createCharEvents _ _ _) nofun
  | shift dir kind => cases h; exact .transports rfl nofun nofun (steadyFrom_shiftEvents _ _ _) nofun
  | writeStr ref => cases h; exact .chars _ rfl nofun nofun (stringAt_ne_sessionReady s ref)
  | writeDec v | writeDec4 v | writeBin v | writeBinShort v | writeHex v =>
    cases h; exact .chars _ rfl nofun nofun nofun
  | writeFloat x =>
    simp only [exec, execWriteFloat] at h
    split at h
    · cases h; exact .float x
    · cases h; exact .chars _ rfl nofun nofun nofun
  | reserved00 => cases h; exact .refused (.inr (.inl rfl))
  | reserved10 op => cases h; exact .refused (.inr (.inr ⟨op, .inl rfl⟩))
  | reserved20 op => cases h; exact .refused (.inr (.inr ⟨op, .inr (.inl rfl)⟩))
  | reserved40 op => cases h; exact .refused (.inr (.inr ⟨op, .inr (.inr (.inl rfl))⟩))
  | reserved80 op => cases h; exact .refused (.inr (.inr ⟨op, .inr (.inr (.inr rfl))⟩))
  | _ => cases hi

end Sys2Proof.Proofs

/-! SUPPORT. What accepting a request and ending one leave unchanged, and the rules about marks, the
session and the shape of event lists that follow from the forms of acceptance (spec/10_state.md R20-R32,
spec/60_exceptions.md R231-R233). -/

namespace Sys2Proof.Proofs

open Sys2Proof.Machine Sys2Proof.Laws

/-! ### The end of a request -/

section Settle

variable {s : State}

theorem mem_finish_faults {m : FaultMark} (w : EndWrite) (h : m ∈ s.faults) :
    m ∈ (s.finish w).faults := by
  cases w with
  | stringOutOfBounds a => exact (mem_insertMark _ _ _).2 (.inr h)
  | _ => exact h

theorem mem_settle_faults {m : FaultMark} (h : m ∈ s.faults) : m ∈ s.settle.faults := by
  obtain hs | ⟨_, _, w, _, _, hs⟩ := settle_cases s
  · rwa [hs]
  · rw [hs]; exact mem_finish_faults w h

theorem nodup_settle_faults (h : s.faults.Nodup) : s.settle.faults.Nodup := by
  obtain hs | ⟨_, _, w, _, _, hs⟩ := settle_cases s
  · rwa [hs]
  · rw [hs]
    cases w with
    | stringOutOfBounds a => exact nodup_insertMark _ h
    | _ => exact h

theorem settle_ready (h : s.ready = true) : s.settle.ready = true := by
  obtain hs | ⟨_, _, w, _, _, hs⟩ := settle_cases s
  · rwa [hs]
  · rw [hs, finish_ready, h, Bool.true_or]

theorem settle_ready_new (h : s.ready = false) (ht : s.settle.ready = true) :
    ∃ es k, s.seq = .running es k .sessionReady ∧ es.length ≤ k := by
  obtain hs | ⟨es, k, w, hseq, hk, hs⟩ := settle_cases s
  · rw [hs, h] at ht; cases ht
  · rw [hs, finish_ready, h, Bool.false_or, decide_eq_true_eq] at ht
    exact ⟨es, k, ht ▸ hseq, hk⟩

/-- After settling, Running has an event left. -/
theorem settle_seq_live : s.settle.seq.live = true := by
  obtain hs | ⟨es, k, w, hs⟩ := seq_cases s
  · rw [settle_idle s hs, hs]; rfl
  · by_cases hk : k < es.length
    · rw [settle_live s hs hk, hs]; exact decide_eq_true hk
    · rw [settle_over s hs (Nat.le_of_not_lt hk), finish_seq]; rfl

theorem settle_frame (h : ∀ es k, s.seq ≠ .running es k .sessionReady) :
    s.settle = { s with seq := s.settle.seq, faults := s.settle.faults } := by
  obtain hs | ⟨es, k, w, hseq, _, hs⟩ := settle_cases s
  · rw [hs]
  · rw [hs]
    cases w with
    | sessionReady => exact absurd hseq (h es k)
    | _ => rfl

end Settle

section Accept

variable (s : State)

theorem accept_seq (es : List Event) (w : EndWrite) :
    (s.accept es w).seq = if es = [] then .idle else .running es 0 w := by
  split
  case isTrue h => subst h; rw [accept_nil, finish_seq]
  case isFalse h => rw [accept_of_ne_nil s w h]

/-- Accepting touches the sequencer, and the fault marks where the request is over at once. -/
theorem accept_frame {es : List Event} {w : EndWrite} (h : es ≠ [] ∨ w ≠ .sessionReady) :
    s.accept es w = { s with seq := (s.accept es w).seq, faults := (s.accept es w).faults } := by
  by_cases hes : es = []
  · refine settle_frame (s := { s with seq := .running es 0 w }) ?_
    rintro es' k hk
    cases hk
    exact h.elim (absurd hes) (absurd rfl)
  · rw [accept_of_ne_nil s w hes]

theorem mem_accept_faults {m : FaultMark} (es : List Event) (w : EndWrite) (h : m ∈ s.faults) :
    m ∈ (s.accept es w).faults :=
  mem_settle_faults (s := { s with seq := .running es 0 w }) h

/-- A mark that accepting adds is the end write's. -/
theorem accept_faults_new {m : FaultMark} {es : List Event} {w : EndWrite}
    (h : m ∈ (s.accept es w).faults) : m ∈ s.faults ∨ ∃ a, m = .stringOutOfBounds a := by
  by_cases hes : es = []
  · subst hes
    rw [accept_nil] at h
    cases w with
    | stringOutOfBounds a =>
      exact ((mem_insertMark _ _ _).1 h).elim (fun h => .inr ⟨a, h⟩) .inl
    | _ => exact .inl h
  · rw [accept_of_ne_nil s w hes] at h
    exact .inl h

theorem nodup_accept_faults (es : List Event) (w : EndWrite) (h : s.faults.Nodup) :
    (s.accept es w).faults.Nodup :=
  nodup_settle_faults (s := { s with seq := .running es 0 w }) h

theorem checkReady_frame (op : Byte) (es : List Event) :
    s.checkReady op es = { s with faults := (s.checkReady op es).faults } := by
  obtain h | h := checkReady_cases s op es <;> rw [h]
  rfl

theorem mem_checkReady_faults (op : Byte) (es : List Event) {m : FaultMark} (h : m ∈ s.faults) :
    m ∈ (s.checkReady op es).faults := by
  obtain hc | hc := checkReady_cases s op es <;> rw [hc]
  · exact h
  · exact (mem_insertMark _ _ _).2 (.inr h)

theorem nodup_checkReady_faults (op : Byte) (es : List Event) (h : s.faults.Nodup) :
    (s.checkReady op es).faults.Nodup := by
  obtain hc | hc := checkReady_cases s op es <;> rw [hc]
  · exact h
  · exact nodup_insertMark _ h

/-- The check marks only without a session, and only a request that transports something. -/
theorem checkReady_faults_new {op : Byte} {es : List Event} {m : FaultMark}
    (h : m ∈ (s.checkReady op es).faults) :
    m ∈ s.faults ∨ m = .preInitTransport op ∧ s.ready = false ∧ es ≠ [] := by
  unfold State.checkReady at h
  split at h
  · exact .inl h
  · rename_i hc
    rw [Bool.or_eq_true, not_or, Bool.not_eq_true, List.isEmpty_iff] at hc
    exact ((mem_insertMark _ _ _).1 h).elim (fun h => .inr ⟨h, hc.1, hc.2⟩) .inl

theorem acceptTransports_refused (op : Byte) (es : List Event) (w : EndWrite) :
    (s.acceptTransports op es w).refused = s.refused := by
  refine (settle_refused _).trans ?_
  obtain h | h := checkReady_cases s op es <;> rw [h]
  rfl

theorem acceptTransports_frame (op : Byte) (es : List Event) {w : EndWrite}
    (hw : w ≠ .sessionReady) : s.acceptTransports op es w =
      { s with seq := (s.acceptTransports op es w).seq
               faults := (s.acceptTransports op es w).faults } := by
  have h := accept_frame (s.checkReady op es) (es := es) (.inr hw)
  rw [State.acceptTransports]
  generalize (s.checkReady op es).accept es w = t at h ⊢
  rw [h, checkReady_frame]

end Accept

/-! ### What every acceptance keeps -/

namespace Acceptance

variable {s t : State} {i : Instr}

theorem frame (h : Acceptance s i t) :
    t = { s with seq := t.seq, faults := t.faults, refused := t.refused } := by
  cases h with
  | init => exact accept_frame s (.inl (by simp [initEvents, allLines]))
  | hpw v => exact accept_frame s (.inr nofun)
  | transports _ _ _ _ hw =>
    rw [acceptTransports_refused]
    exact acceptTransports_frame s _ _ hw
  | refused _ | float _ => rfl

theorem mem_faults (h : Acceptance s i t) {m : FaultMark} (hm : m ∈ s.faults) : m ∈ t.faults := by
  cases h with
  | init | hpw _ => exact mem_accept_faults s _ _ hm
  | transports _ _ _ _ _ => exact mem_accept_faults _ _ _ (mem_checkReady_faults s _ _ hm)
  | refused _ => exact hm
  | float x => exact (mem_insertMark _ _ _).2 (.inr hm)

theorem refused_cases (h : Acceptance s i t) :
    t.refused = s.refused ∨ Refusable i ∧ ∃ m, t.refused = insertMark m s.refused := by
  cases h with
  | init | hpw _ => exact .inl (settle_refused _)
  | transports _ _ _ _ _ => exact .inl (acceptTransports_refused s _ _ _)
  | refused hi => exact .inr ⟨hi, _, rfl⟩
  | float x => exact .inl rfl

theorem mem_refused (h : Acceptance s i t) {m : RefusalMark} (hm : m ∈ s.refused) :
    m ∈ t.refused := by
  obtain ht | ⟨_, m', ht⟩ := h.refused_cases <;> rw [ht]
  · exact hm
  · exact (mem_insertMark _ _ _).2 (.inr hm)

theorem seq_live (h : Acceptance s i t) : t.seq.live = true := by
  cases h <;> exact settle_seq_live

theorem marksDistinct (h : Acceptance s i t) (hs : s.marksDistinct = true) :
    t.marksDistinct = true := by
  simp only [State.marksDistinct, Bool.and_eq_true, decide_eq_true_eq] at hs ⊢
  obtain ⟨hf, hr⟩ := hs
  constructor
  · cases h with
    | init | hpw _ => exact nodup_accept_faults s _ _ hf
    | transports _ _ _ _ _ => exact nodup_accept_faults _ _ _ (nodup_checkReady_faults s _ _ hf)
    | refused _ => exact hf
    | float x => exact nodup_insertMark _ hf
  · obtain ht | ⟨_, m, ht⟩ := h.refused_cases <;> rw [ht]
    · exact hr
    · exact nodup_insertMark _ hr

/-- The list that an acceptance starts is steady, and only INIT's has the session as its end write. -/
theorem running (h : Acceptance s i t) {es : List Event} {k : Nat} {w : EndWrite}
    (ht : t.seq = .running es k w) :
    steadyFrom false es = true ∧ (w = .sessionReady → i = .init) := by
  cases h with
  | init =>
    rw [accept_seq] at ht
    split_ifs at ht
    cases ht
    exact ⟨steadyFrom_initEvents s.cfg, fun _ => rfl⟩
  | hpw v =>
    cases ht
    exact ⟨rfl, nofun⟩
  | transports _ _ _ hes hw =>
    rw [State.acceptTransports, accept_seq] at ht
    split_ifs at ht
    cases ht
    exact ⟨hes, fun h => absurd h hw⟩
  | refused _ | float _ => cases ht

/-- Where an acceptance adds the mark PreInitTransport (spec/60_exceptions.md R232). -/
theorem preInit_new (h : Acceptance s i t) {o : Byte}
    (ho : FaultMark.preInitTransport o ∈ t.faults) (hs : FaultMark.preInitTransport o ∉ s.faults) :
    (∃ p, encode i = .request (o :: p)) ∧ s.ready = false ∧ t.seq ≠ .idle ∧ i ≠ .init ∧
      ∀ v, i ≠ .hpw v := by
  cases h with
  | init | hpw _ =>
    obtain ho | ⟨a, ho⟩ := accept_faults_new s ho
    · exact absurd ho hs
    · cases ho
  | @transports _ op p es w hop hinit hhpw _ _ =>
    obtain ho | ⟨a, ho⟩ := accept_faults_new _ ho
    · obtain ho | ⟨ho, hready, hes⟩ := checkReady_faults_new s ho
      · exact absurd ho hs
      · cases ho
        refine ⟨⟨_, hop⟩, hready, ?_, hinit, hhpw⟩
        rw [State.acceptTransports, accept_seq, if_neg hes]
        nofun
    · cases ho
  | refused _ => exact absurd ho hs
  | float x =>
    obtain ho | ho := (mem_insertMark _ _ _).1 ho
    · cases ho
    · exact absurd ho hs

/-- Without a session, a request other than INIT and HPW that starts a list is marked (R232). -/
theorem preInit_mem (h : Acceptance s i t) {op : Byte} {p : List Byte}
    (hop : encode i = .request (op :: p)) (hinit : i ≠ .init) (hhpw : ∀ v, i ≠ .hpw v)
    (hready : s.ready = false) (ht : t.seq ≠ .idle) : FaultMark.preInitTransport op ∈ t.faults := by
  cases h with
  | init => exact absurd rfl hinit
  | hpw v => exact absurd rfl (hhpw v)
  | @transports _ op' p' es w hop' _ _ _ _ =>
    rw [hop] at hop'
    cases hop'
    rw [State.acceptTransports, accept_seq] at ht
    have hes : es ≠ [] := fun hes => ht (if_pos hes)
    refine mem_accept_faults _ _ _ ?_
    simp [State.checkReady, hready, hes]
  | refused _ | float _ => exact absurd rfl ht

end Acceptance

/-- Settles O49: the frame of each form of acceptance. -/
theorem acceptingARequestFrame : Obligations.AcceptingARequestFrame := by
  intro i s t hi ht
  have h := acceptance_of_exec hi ht
  refine ⟨h.frame, fun m hm => h.mem_faults hm, fun m hm => h.mem_refused hm, fun hne => ?_⟩
  exact h.refused_cases.elim (fun he => absurd he hne) (fun hr => hr.1)

theorem offWire_of_encode {i : Instr} {p : List Byte} (h : encode i = .request p) :
    i.onWire = false := by
  simp [Instr.onWire, h]

/-- Settles O51: the check of R232 is the one place that adds the mark. -/
theorem preInitTransportIsMarkedOnce : Obligations.PreInitTransportIsMarkedOnce := by
  intro i op rest s t hop _ ht
  have h := acceptance_of_exec (offWire_of_encode hop) ht
  refine ⟨fun hinit hhpw hready hseq => h.preInit_mem hop hinit hhpw hready hseq, fun o ho hs => ?_⟩
  obtain ⟨⟨p, hp⟩, hrest⟩ := h.preInit_new ho hs
  rw [hop] at hp
  cases hp
  exact ⟨rfl, hrest⟩

/-- Settles O52: every list that is accepted is steady. -/
theorem dataIsStableWhileEnableIsHigh : Obligations.DataIsStableWhileEnableIsHigh := by
  intro i s t es k w hi ht hseq
  exact stableWhileHigh_of_steadyFrom ((acceptance_of_exec hi ht).running hseq).1

/-- Settles O54: only an end write of INIT's kind sets `ready`, and only INIT's acceptance has it. -/
theorem onlyInitMakesTheSession : Obligations.OnlyInitMakesTheSession := by
  constructor
  · intro s t h hs ht
    obtain ⟨i, rest, hidle, hd, hexec⟩ | ⟨es, k, w, ev, hseq, hev, rfl⟩ | rfl := step_cases h
    · have hframe := (acceptance_of_exec (decodeRequest_offWire hd) hexec).frame
      rw [hframe] at ht
      rw [hs] at ht
      cases ht
    · obtain ⟨es', k', hseq', hk⟩ := settle_ready_new (s := (s.react ev).advance) hs ht
      rw [advance_seq, react_seq, hseq] at hseq'
      cases hseq'
      exact ⟨es, k, hseq, hk⟩
    · obtain ⟨es, k, hseq, hk⟩ := settle_ready_new hs ht
      exact ⟨es, k, hseq, by omega⟩
  · intro i s t es k hidle ht hseq
    cases hi : i.onWire with
    | false => exact ((acceptance_of_exec hi ht).running hseq).2 rfl
    | true =>
      rw [exec_onWire s hi] at ht
      cases ht
      rw [mapRx_seq, hidle] at hseq
      cases hseq

end Sys2Proof.Proofs

/-! SUPPORT. The receiver (spec/20_memory.md R59-R67): what a wire instruction gives in Four mode, what
a latch can do, and the invariants that each of them keeps. -/

namespace Sys2Proof.Proofs

open Sys2Proof.Machine Sys2Proof.Laws

/-! ### Wire instructions in Four mode -/

section Deliver

variable {r : Receiver}

theorem deliver_four (h : r.rmode = .four) (us : Nat) (effect : Receiver → Receiver) :
    r.deliver us effect = effect { r with need := us } := by
  simp [Receiver.deliver, h]

theorem enterFour_detect8 (h : r.rmode = .detect8) (us : Nat) :
    r.enterFour us = { r with rmode := .four, phase := .hi, need := us, gap := 0 } := by
  simp [Receiver.enterFour, h]

theorem cursorLeft_ddram {a : BitVec 7} (ht : r.target = .ddram) (ha : r.ac = some a) :
    r.cursorLeft = { r with ac := if canShiftLeft a then some (a - 1) else none } := by
  simp [Receiver.cursorLeft, ht, ha]

theorem cursorLeft_bottom (h : r.target = .cgram ∨ r.ac = none) :
    r.cursorLeft = { r with ac := none } := by
  unfold Receiver.cursorLeft
  split
  · simp_all
  · rfl

theorem cursorRight_ddram {a : BitVec 7} (ht : r.target = .ddram) (ha : r.ac = some a) :
    r.cursorRight = { r with ac := if canShiftRight a then some (a + 1) else none } := by
  simp [Receiver.cursorRight, ht, ha]

theorem cursorRight_bottom (h : r.target = .cgram ∨ r.ac = none) :
    r.cursorRight = { r with ac := none } := by
  unfold Receiver.cursorRight
  split
  · simp_all
  · rfl

theorem dataWrite_lost (b : Byte) (h : r.entry ≠ some 0x06#8 ∨ r.ac = none) :
    r.dataWrite b = Receiver.lost := by
  unfold Receiver.dataWrite
  split
  · rename_i he
    simp [h.resolve_left (not_not_intro he)]
  · rfl

theorem dataWrite_cgram {a : BitVec 7} (b : Byte) (he : r.entry = some 0x06#8) (ha : r.ac = some a)
    (ht : r.target = .cgram) : r.dataWrite b = r.storeCgram a b := by
  simp [Receiver.dataWrite, he, ha, ht]

end Deliver

section FourMode

variable {r : Receiver} (h : r.rmode = .four) (c : Config)
include h

theorem execute_clear : r.execute c .wireClear =
    { r with ddram := Memory.fill ddramSize 0x20#8, ac := some 0#7, target := .ddram, shifted := false
             need := c.execClearUs } := by
  rw [Receiver.execute, deliver_four h]; rfl

theorem execute_functionSet : r.execute c .wireFunctionSet =
    { r with fset := some 0x28#8, need := c.execOtherUs } := by
  rw [Receiver.execute, deliver_four h]

theorem execute_displayCtrl : r.execute c .wireDisplayCtrl =
    { r with dctl := some 0x0F#8, need := c.execOtherUs } := by
  rw [Receiver.execute, deliver_four h]

theorem execute_entryMode : r.execute c .wireEntryMode =
    { r with entry := some 0x06#8, need := c.execOtherUs } := by
  rw [Receiver.execute, deliver_four h]

theorem execute_displayShiftLeft : r.execute c .wireDisplayShiftLeft =
    { r with shifted := true, need := c.execOtherUs } := by
  rw [Receiver.execute, deliver_four h]

theorem execute_displayShiftRight : r.execute c .wireDisplayShiftRight =
    { r with shifted := true, need := c.execOtherUs } := by
  rw [Receiver.execute, deliver_four h]

theorem execute_setCgramAddr (a : BitVec 6) : r.execute c (.wireSetCgramAddr a) =
    { r with ac := some (a.setWidth 7), target := .cgram, need := c.execOtherUs } := by
  rw [Receiver.execute, deliver_four h]

theorem execute_setDdramAddr (a : BitVec 7) : r.execute c (.wireSetDdramAddr a) =
    { r with ac := some a, target := .ddram, need := c.execOtherUs } := by
  rw [Receiver.execute, deliver_four h]

theorem execute_cursorShiftLeft {a : BitVec 7} (ht : r.target = .ddram) (ha : r.ac = some a) :
    r.execute c .wireCursorShiftLeft =
      { r with ac := if canShiftLeft a then some (a - 1) else none, need := c.execOtherUs } := by
  rw [Receiver.execute, deliver_four h]; exact cursorLeft_ddram ht ha

theorem execute_cursorShiftLeft_bottom (hb : r.target = .cgram ∨ r.ac = none) :
    r.execute c .wireCursorShiftLeft = { r with ac := none, need := c.execOtherUs } := by
  rw [Receiver.execute, deliver_four h]; exact cursorLeft_bottom hb

theorem execute_cursorShiftRight {a : BitVec 7} (ht : r.target = .ddram) (ha : r.ac = some a) :
    r.execute c .wireCursorShiftRight =
      { r with ac := if canShiftRight a then some (a + 1) else none, need := c.execOtherUs } := by
  rw [Receiver.execute, deliver_four h]; exact cursorRight_ddram ht ha

theorem execute_cursorShiftRight_bottom (hb : r.target = .cgram ∨ r.ac = none) :
    r.execute c .wireCursorShiftRight = { r with ac := none, need := c.execOtherUs } := by
  rw [Receiver.execute, deliver_four h]; exact cursorRight_bottom hb

theorem execute_data (b : Byte) : r.execute c (.wireData b) =
    ({ r with need := c.execDataUs } : Receiver).dataWrite b := by
  rw [Receiver.execute, deliver_four h]

theorem execute_data_lost (b : Byte) (hb : r.entry ≠ some 0x06#8 ∨ r.ac = none) :
    r.execute c (.wireData b) = Receiver.lost := by
  rw [execute_data h]; exact dataWrite_lost b hb

theorem execute_data_no_cell {a : BitVec 7} (b : Byte) (he : r.entry = some 0x06#8)
    (ha : r.ac = some a) (ht : r.target = .ddram) (hcell : hasDdramCell a = false) :
    r.execute c (.wireData b) = Receiver.lost := by
  rw [execute_data h]
  simp [Receiver.dataWrite, he, ha, ht, Receiver.storeDdram, hcell]

theorem execute_data_ddram {a : BitVec 7} (b : Byte) (he : r.entry = some 0x06#8)
    (ha : r.ac = some a) (ht : r.target = .ddram) (hcell : hasDdramCell a = true) :
    r.execute c (.wireData b) =
      { r with ddram := Memory.put r.ddram a.toNat b, need := c.execDataUs
               ac := if a = 0x27#7 ∨ a = 0x67#7 then none else some (a + 1) } := by
  rw [execute_data h]
  simp [Receiver.dataWrite, he, ha, ht, Receiver.storeDdram, hcell]

theorem execute_data_cgram {a : BitVec 7} (b : Byte) (he : r.entry = some 0x06#8)
    (ha : r.ac = some a) (ht : r.target = .cgram) :
    r.execute c (.wireData b) =
      { r with cgram := Memory.put r.cgram (a.extractLsb' 0 6).toNat b, need := c.execDataUs
               ac := if a.extractLsb' 0 6 = 0x3F#6 then none else some (a + 1) } := by
  rw [execute_data h]; exact dataWrite_cgram b he ha ht

end FourMode

/-- A wire instruction of a state whose receiver it takes to `r`. -/
theorem exec_wire {i : Instr} {s : State} {r : Receiver} (hi : i.onWire = true)
    (hr : s.rx.execute s.cfg i = r) : exec i s = .next { s with rx := r } := by
  rw [exec_onWire s hi, ← hr]
  rfl

/-- Settles O40: each mode byte is set by the effect of its command. -/
theorem wireModeBytesResult : Obligations.WireModeBytesResult := fun s h =>
  ⟨exec_wire rfl (execute_functionSet h s.cfg), exec_wire rfl (execute_displayCtrl h s.cfg),
    exec_wire rfl (execute_entryMode h s.cfg)⟩

/-- Settles O42: both shifts have the same effect. -/
theorem wireDisplayShiftResult : Obligations.WireDisplayShiftResult := fun s h =>
  ⟨exec_wire rfl (execute_displayShiftLeft h s.cfg), exec_wire rfl (execute_displayShiftRight h s.cfg)⟩

/-- Settles O43: the 6-bit address is widened by a zero bit. -/
theorem wireSetAddressResult : Obligations.WireSetAddressResult := fun a g s h =>
  ⟨exec_wire rfl (execute_setDdramAddr h s.cfg a), g.setWidth 7,
    BitVec.toNat_setWidth_of_le (by decide), exec_wire rfl (execute_setCgramAddr h s.cfg g)⟩

/-- Settles O45: the one instruction of Detect8 mode. -/
theorem wireInitNibbleResult : Obligations.WireInitNibbleResult := fun _ h =>
  exec_wire rfl (enterFour_detect8 h _)

/-- Settles O41: the modelled counters are those of the command table; elsewhere the counter is ⊥. -/
theorem wireCursorShiftResult : Obligations.WireCursorShiftResult := by
  intro s h
  refine ⟨fun a ht ha => ?_, fun hb => ⟨exec_wire rfl (execute_cursorShiftLeft_bottom h s.cfg hb),
    exec_wire rfl (execute_cursorShiftRight_bottom h s.cfg hb)⟩⟩
  rw [exec_wire (s := s) rfl (execute_cursorShiftLeft h s.cfg ht ha),
    exec_wire (s := s) rfl (execute_cursorShiftRight h s.cfg ht ha)]
  refine ⟨fun hr => ?_, fun hr => ?_, fun hr => ?_, fun hr => ?_⟩
  · rw [show canShiftLeft a = true by simpa [canShiftLeft] using hr, if_pos rfl]
  · rw [show canShiftLeft a = false by simpa [canShiftLeft] using hr, if_neg nofun]
  · rw [show canShiftRight a = true by simpa [canShiftRight] using hr, if_pos rfl]
  · rw [show canShiftRight a = false by simpa [canShiftRight] using hr, if_neg nofun]

theorem get?_map_pair (v : Byte) (as : List Nat) (a : Nat) :
    Memory.get? (as.map fun c => (c, v)) a = if a ∈ as then some v else none := by
  induction as with
  | nil => rfl
  | cons c as ih =>
    rw [List.map_cons, Memory.get?, ih]
    by_cases h : a = c <;> simp [h]

/-- A filled memory reads the byte at each of its addresses. -/
theorem get?_fill (n a : Nat) (v : Byte) :
    Memory.get? (Memory.fill n v) a = if a < n then some v else none := by
  rw [Memory.fill, get?_map_pair]
  simp

/-- Settles O39: the filled memory reads a space at each of the 128 addresses. -/
theorem wireClearResult : Obligations.WireClearResult := fun s h =>
  ⟨_, exec_wire rfl (execute_clear h s.cfg), fun _ ha => (get?_fill ddramSize _ _).trans (if_pos ha),
    fun _ ha => (get?_fill ddramSize _ _).trans (if_neg (Nat.not_lt.mpr ha)), rfl⟩

theorem cgramAddress_toNat (a : BitVec 7) : (a.extractLsb' 0 6).toNat = a.toNat % 64 := by
  simp [BitVec.extractLsb'_toNat]

/-- Settles O44: the two stores, and the three ways to lose the receiver. -/
theorem wireDataResult : Obligations.WireDataResult := by
  intro b s h
  refine ⟨fun hb => exec_wire rfl (execute_data_lost h s.cfg b hb),
    fun a he ha ht => ⟨fun hcell => ?_, fun hcell => ?_⟩, fun a he ha ht => ?_⟩
  · have hcell : hasDdramCell a = true := by simpa [hasDdramCell] using hcell
    refine ⟨_, exec_wire rfl (execute_data_ddram h s.cfg b he ha ht hcell), get?_put_same _ _ _,
      fun c hc => get?_put_other _ _ hc, ?_⟩
    simp only [← BitVec.toNat_inj, BitVec.toNat_ofNat]
  · have hcell : hasDdramCell a = false := by simpa [hasDdramCell] using hcell
    exact exec_wire rfl (execute_data_no_cell h s.cfg b he ha ht hcell)
  · refine ⟨_, exec_wire rfl (execute_data_cgram h s.cfg b he ha ht), ?_⟩
    simp only [← BitVec.toNat_inj, cgramAddress_toNat]
    exact ⟨get?_put_same _ _ _, fun c hc => get?_put_other _ _ hc, rfl⟩

/-! ### Latches -/

/-- The receiver after a latch has answered `p`: it executes the instruction the latch completed. -/
def completeLatch (c : Config) (p : Receiver × Option Instr) : Receiver :=
  match p.2 with
  | none => p.1
  | some i => p.1.execute c i

section Latch

variable {c : Config} {x : Lines Level} {r : Receiver}

theorem react_eq (ev : Event) : r.react c x ev = completeLatch c (r.observe c x ev) := by
  unfold Receiver.react completeLatch
  split <;> simp [*]

theorem react_latch (hx : x.e = true) :
    r.react c x (.lvl .e false) = completeLatch c (r.latch c x.rs (sampleNibble x)) := by
  rw [react_eq]
  simp [Receiver.observe, isLatch, hx]

theorem react_of_not_latch {ev : Event} (h : isLatch x ev = false) : r.react c x ev =
    match ev with
    | .waitMs n => r.wait (n * 1000)
    | .waitUs n => r.wait n
    | .dir _ _ => r
    | .lvl _ _ => r := by
  rw [react_eq]
  unfold Receiver.observe
  rw [h]
  cases ev <;> rfl

theorem latch_hi (hmode : r.rmode = .four) (hphase : r.phase = .hi) (rs : Level) (n : Nibble) :
    r.latch c rs n = (if r.gap < r.need then Receiver.lost
      else { r with hold := some n, holdRs := some rs, phase := .lo }, none) := by
  simp only [Receiver.latch, hmode, hphase, Receiver.latchHi, Receiver.busy, decide_eq_true_eq]

/-- The second latch of a byte answers its wire word. -/
theorem latch_lo_word {h : Nibble} {i : Instr} (rs : Level) (n : Nibble) (hmode : r.rmode = .four)
    (hphase : r.phase = .lo) (hh : r.hold = some h) (hrs : r.holdRs = some rs)
    (hd : decodeWire (wireWord rs h n) = .ok i) :
    r.latch c rs n = ({ r with phase := .hi, gap := 0 }, some i) := by
  simp only [Receiver.latch, hmode, hphase, Receiver.latchLo, hh, hrs, hd, ↓reduceIte]

/-- The second latch of a byte loses the receiver where RS moved or the word has no meaning. -/
theorem latch_lo_lost {h : Nibble} {hrs : Level} (rs : Level) (n : Nibble) (hmode : r.rmode = .four)
    (hphase : r.phase = .lo) (hh : r.hold = some h) (hhrs : r.holdRs = some hrs)
    (hd : hrs ≠ rs ∨ ∃ e, decodeWire (wireWord rs h n) = .error e) :
    r.latch c rs n = (Receiver.lost, none) := by
  simp only [Receiver.latch, hmode, hphase, Receiver.latchLo, hh, hhrs]
  split_ifs with hrs'
  · obtain ⟨e, he⟩ := hd.resolve_left (not_not_intro hrs'.symm)
    simp only [he]
  · rfl

theorem nibbleWord_eq_iff (rs : Level) (n p : Nibble) :
    (BitVec.ofBool rs ++ n : BitVec 5) = 0#1 ++ p ↔ rs = false ∧ n = p := by
  revert rs n p; decide +kernel

theorem latch_detect8_ok (n : Nibble) (hmode : r.rmode = .detect8) (hgap : r.need ≤ r.gap)
    (hn : n = c.initNibble) : r.latch c false n = (r, some .wireInitNibble) := by
  subst hn
  simp [Receiver.latch, hmode, Receiver.latchDetect8, Receiver.busy, Nat.not_lt.mpr hgap,
    decodeNibbleFor]

theorem latch_detect8_lost (rs : Level) (n : Nibble) (hmode : r.rmode = .detect8)
    (h : r.gap < r.need ∨ rs = true ∨ n ≠ c.initNibble) :
    r.latch c rs n = (Receiver.lost, none) := by
  by_cases hgap : r.gap < r.need
  · simp [Receiver.latch, hmode, Receiver.latchDetect8, Receiver.busy, hgap]
  · have hword : ¬ (BitVec.ofBool rs ++ n : BitVec 5) = 0#1 ++ c.initNibble := by
      rw [nibbleWord_eq_iff]
      rintro ⟨rfl, hn⟩
      exact (h.resolve_left hgap).elim nofun (absurd hn)
    simp [Receiver.latch, hmode, Receiver.latchDetect8, Receiver.busy, hgap, decodeNibbleFor, hword]

end Latch

/-- Settles O4: the event's own effects, then the instruction the latch completes, then the end. -/
theorem latchStepRunsTheDecodedWireWord : Obligations.LatchStepRunsTheDecodedWireWord := by
  intro s es k w hp hs hev hx n t
  rw [step_running hp hs hev]
  have hreact : (s.react (.lvl .e false)).advance =
      { t with rx := completeLatch s.cfg (s.rx.latch s.cfg s.lvl.rs n) } := by
    simp only [State.react, State.advance, State.record, State.gpio, react_latch hx, hs]
    rfl
  rw [hreact]
  constructor
  · intro h i hmode hphase hhold hrs hd
    rw [latch_lo_word s.lvl.rs n hmode hphase hhold hrs hd, exec_onWire _ (decodeWire_onWire hd)]
    rfl
  · intro hmode hgap hrs hn
    rw [hrs, latch_detect8_ok n hmode hgap hn]
    rfl

/-- Settles O46: the receiver after the step is what the latch leaves, with nothing to execute. -/
theorem latchHoldsOrLosesTheReceiver : Obligations.LatchHoldsOrLosesTheReceiver := by
  intro s es k w hp hs hev hx n
  refine ⟨_, step_running hp hs hev, ?_⟩
  have hrx : (s.react (.lvl .e false)).advance.settle.rx =
      completeLatch s.cfg (s.rx.latch s.cfg s.lvl.rs n) :=
    (settle_rx _).trans (react_latch hx)
  rw [hrx]
  refine ⟨fun hmode hphase hgap => ?_, fun hmode hphase hgap => ?_, fun hmode h => ?_,
    fun h hrs hmode hphase hhold hhrs hd => ?_⟩
  · rw [latch_hi hmode hphase, if_pos hgap]
    rfl
  · rw [latch_hi hmode hphase, if_neg (Nat.not_lt.mpr hgap)]
    rfl
  · rw [latch_detect8_lost s.lvl.rs n hmode h]
    rfl
  · rw [latch_lo_lost s.lvl.rs n hmode hphase hhold hhrs hd]
    rfl

end Sys2Proof.Proofs

/-! SUPPORT. The invariants that every step keeps: what is only added to, the canonical form of the
memories, the consistency of sequencer, marks and receiver, and the replay of the trace
(spec/10_state.md R20-R27, spec/20_memory.md R59-R67, spec/60_exceptions.md R251). -/

namespace Sys2Proof.Proofs

open Sys2Proof.Machine Sys2Proof.Laws

/-! ### Register rules -/

/-- The marks after an event: those before, and LevelOnNonOutput for a level on no output (R233). -/
theorem mem_marks_iff {m : FaultMark} (ev : Event) (x : Lines PinDir) (fs : List FaultMark) :
    m ∈ ev.marks x fs ↔
      m ∈ fs ∨ ∃ l v, ev = .lvl l v ∧ Lines.get x l ≠ .output ∧ m = .levelOnNonOutput l := by
  cases ev with
  | lvl l v =>
    simp only [Event.marks]
    split
    case isTrue h => simp [h]
    case isFalse h =>
      rw [mem_insertMark, or_comm]
      refine or_congr Iff.rfl ⟨fun hm => ⟨l, v, rfl, h, hm⟩, ?_⟩
      rintro ⟨l', v', he, _, hm⟩
      cases he
      exact hm
  | dir l d => simp [Event.marks]
  | waitMs n => simp [Event.marks]
  | waitUs n => simp [Event.marks]

theorem mem_marks {m : FaultMark} (ev : Event) (x : Lines PinDir) {fs : List FaultMark}
    (h : m ∈ fs) : m ∈ ev.marks x fs :=
  (mem_marks_iff ev x fs).2 (.inl h)

theorem nodup_marks (ev : Event) (x : Lines PinDir) {fs : List FaultMark} (h : fs.Nodup) :
    (ev.marks x fs).Nodup := by
  cases ev with
  | lvl l v =>
    simp only [Event.marks]
    split
    · exact h
    · exact nodup_insertMark _ h
  | _ => exact h

/-- Settles O53: by the three things a step can be. -/
theorem everyStepOnlyAdds : Obligations.EveryStepOnlyAdds := by
  intro s t h
  obtain ⟨i, rest, _, hd, hexec⟩ | ⟨es, k, w, ev, _, _, rfl⟩ | rfl := step_cases h
  · obtain ⟨_, p, _, hp⟩ := decodeRequest_ok hd
    have hacc := acceptance_of_exec (decodeRequest_offWire hd) hexec
    refine ⟨fun m hm => hacc.mem_faults hm, fun m hm => hacc.mem_refused hm, ?_⟩
    rw [hacc.frame]
    exact ⟨⟨[], (List.append_nil _).symm, Nat.zero_le 1⟩, rfl, rfl, id, p, hp⟩
  · refine ⟨fun m hm => mem_settle_faults (mem_marks ev s.dir hm), fun m hm => ?_,
      ⟨[ev], settle_trace _, Nat.le_refl 1⟩, settle_cfg _, settle_hostMem _,
      fun hr => settle_ready (s := (s.react ev).advance) hr, [], ?_⟩
    · rwa [settle_refused]
    · rw [settle_input]; rfl
  · refine ⟨fun m hm => mem_settle_faults hm, fun m hm => ?_,
      ⟨[], by rw [settle_trace, List.append_nil], Nat.zero_le 1⟩, settle_cfg s, settle_hostMem s,
      settle_ready, [], ?_⟩
    · rwa [settle_refused]
    · rw [settle_input]; rfl

/-! ### Invariants of the receiver -/

/-- What an event or a wire instruction can make of a receiver keeps `P`, where `P` holds of the lost
one, waits and held nibbles keep it, and every wire instruction in Four mode does. -/
structure KeptByReceiver (P : Receiver → Prop) : Prop where
  lost : P Receiver.lost
  wait : ∀ r us, P r → P (r.wait us)
  held : ∀ r n rs, r.rmode = .four → P r →
    P { r with hold := some n, holdRs := some rs, phase := .lo }
  completed : ∀ r, r.rmode = .four → P r → P { r with phase := .hi, gap := 0 }
  entered : ∀ r us, r.rmode = .detect8 → P r →
    P { r with rmode := .four, phase := .hi, need := us, gap := 0 }
  executed : ∀ r c i, r.rmode = .four → i ≠ .wireInitNibble → P r → P (r.execute c i)

namespace KeptByReceiver

variable {P : Receiver → Prop} (hP : KeptByReceiver P)
include hP

theorem execute {r : Receiver} (h : P r) (c : Config) (i : Instr) : P (r.execute c i) := by
  cases hm : r.rmode with
  | unknown => rwa [execute_unknown hm]
  | four =>
    by_cases hi : i = .wireInitNibble
    · subst hi
      simpa [Receiver.execute, Receiver.enterFour, hm] using hP.lost
    · exact hP.executed r c i hm hi h
  | detect8 =>
    cases i with
    | wireInitNibble =>
      rw [Receiver.execute, enterFour_detect8 hm]
      exact hP.entered r _ hm h
    | wireClear | wireEntryMode | wireDisplayCtrl | wireCursorShiftLeft | wireCursorShiftRight
    | wireDisplayShiftLeft | wireDisplayShiftRight | wireFunctionSet | wireSetCgramAddr _
    | wireSetDdramAddr _ | wireData _ =>
      simpa [Receiver.execute, Receiver.deliver, hm] using hP.lost
    | _ => exact h

theorem latch {r : Receiver} (h : P r) (c : Config) (rs : Level) (n : Nibble) :
    P (r.latch c rs n).1 := by
  unfold Receiver.latch
  split
  case h_1 => exact h
  case h_2 =>
    unfold Receiver.latchDetect8
    split
    · exact hP.lost
    · split
      · exact h
      · exact hP.lost
  case h_3 hm =>
    split
    · unfold Receiver.latchHi
      split
      · exact hP.lost
      · exact hP.held r n rs hm h
    · unfold Receiver.latchLo
      split
      · split
        · split
          · exact hP.completed r hm h
          · exact hP.lost
        · exact hP.lost
      · exact hP.lost

theorem react {r : Receiver} (h : P r) (c : Config) (x : Lines Level) (ev : Event) :
    P (r.react c x ev) := by
  cases hl : isLatch x ev with
  | true =>
    have hobs : r.observe c x ev = r.latch c x.rs (sampleNibble x) := by
      simp [Receiver.observe, hl]
    have hlatch := hP.latch h c x.rs (sampleNibble x)
    rw [react_eq, hobs, completeLatch]
    split
    · exact hlatch
    · exact hP.execute hlatch c _
  | false =>
    rw [react_of_not_latch hl]
    cases ev with
    | waitMs n => exact hP.wait r _ h
    | waitUs n => exact hP.wait r _ h
    | dir _ _ | lvl _ _ => exact h

end KeptByReceiver

/-- What a wire instruction keeps of the receiver `r` in Four mode where it gives `q`. -/
structure ExecutedFrom (r q : Receiver) : Prop where
  rmode : q.rmode = r.rmode
  phase : q.phase = r.phase
  hold : q.hold = r.hold
  holdRs : q.holdRs = r.holdRs
  ddram : Memory.wf ddramSize r.ddram = true → Memory.wf ddramSize q.ddram = true
  cgram : Memory.wf cgramSize r.cgram = true → Memory.wf cgramSize q.cgram = true

theorem dataWrite_from (b : Byte) (r : Receiver) :
    r.dataWrite b = Receiver.lost ∨ ExecutedFrom r (r.dataWrite b) := by
  unfold Receiver.dataWrite
  split
  · split
    · exact .inl rfl
    · rename_i a _
      split
      · unfold Receiver.storeDdram
        split
        · exact .inr ⟨rfl, rfl, rfl, rfl, wf_put _ _ a.isLt, id⟩
        · exact .inl rfl
      · exact .inr ⟨rfl, rfl, rfl, rfl, id, wf_put _ _ (a.extractLsb' 0 6).isLt⟩
  · exact .inl rfl

theorem execute_from {r : Receiver} (h : r.rmode = .four) (c : Config) {i : Instr}
    (hi : i ≠ .wireInitNibble) :
    r.execute c i = Receiver.lost ∨ ExecutedFrom r (r.execute c i) := by
  cases i with
  | wireInitNibble => exact absurd rfl hi
  | wireClear =>
    rw [execute_clear h]
    exact .inr ⟨rfl, rfl, rfl, rfl, fun _ => wf_fill_ddram _, id⟩
  | wireCursorShiftLeft =>
    rw [Receiver.execute, deliver_four h, Receiver.cursorLeft]
    split <;> exact .inr ⟨rfl, rfl, rfl, rfl, id, id⟩
  | wireCursorShiftRight =>
    rw [Receiver.execute, deliver_four h, Receiver.cursorRight]
    split <;> exact .inr ⟨rfl, rfl, rfl, rfl, id, id⟩
  | wireData b =>
    rw [execute_data h]
    obtain hlost | ⟨hmode, hphase, hhold, hrs, hddram, hcgram⟩ :=
      dataWrite_from b { r with need := c.execDataUs }
    · exact .inl hlost
    · exact .inr ⟨hmode, hphase, hhold, hrs, hddram, hcgram⟩
  | wireEntryMode | wireDisplayCtrl | wireDisplayShiftLeft | wireDisplayShiftRight
  | wireFunctionSet | wireSetCgramAddr _ | wireSetDdramAddr _ =>
    rw [Receiver.execute, deliver_four h]
    exact .inr ⟨rfl, rfl, rfl, rfl, id, id⟩
  | _ => exact .inr ⟨rfl, rfl, rfl, rfl, id, id⟩

theorem wait_of_known {r : Receiver} (h : r.rmode ≠ .unknown) (us : Nat) :
    r.wait us = { r with gap := r.gap + us } := by
  unfold Receiver.wait
  split
  · exact absurd ‹_› h
  · rfl
  · rfl

/-- The receiver's memories are in canonical form. -/
def ReceiverMemoryWf (r : Receiver) : Prop :=
  Memory.wf ddramSize r.ddram = true ∧ Memory.wf cgramSize r.cgram = true

theorem memoryWf_iff (s : State) :
    s.memoryWf = true ↔ ReceiverMemoryWf s.rx ∧ HostMem.wf s.hostMem = true := by
  simp only [State.memoryWf, ReceiverMemoryWf, Bool.and_eq_true]

theorem receiverMemoryWf_kept : KeptByReceiver ReceiverMemoryWf where
  lost := ⟨rfl, rfl⟩
  wait r us h := by
    by_cases hm : r.rmode = .unknown
    · rwa [wait_unknown hm]
    · rwa [wait_of_known hm]
  held _ _ _ _ h := h
  completed _ _ h := h
  entered _ _ _ h := h
  executed r c i hm hi h := by
    obtain hlost | hfrom := execute_from hm c hi
    · rw [hlost]; exact ⟨rfl, rfl⟩
    · exact ⟨hfrom.ddram h.1, hfrom.cgram h.2⟩

theorem consistent_iff (r : Receiver) : r.consistent = true ↔
    (r.rmode = .unknown → r = Receiver.lost) ∧
      (r.phase = .lo → r.hold.isSome = true ∧ r.holdRs.isSome = true) := by
  simp only [Receiver.consistent, Bool.and_eq_true, decide_eq_true_eq]

theorem consistent_kept : KeptByReceiver (fun r => r.consistent = true) where
  lost := rfl
  wait r us h := by
    by_cases hm : r.rmode = .unknown
    · rwa [wait_unknown hm]
    · rw [wait_of_known hm, consistent_iff]
      exact ⟨fun hu => absurd hu hm, ((consistent_iff r).1 h).2⟩
  held r n rs hm _ := (consistent_iff _).2
    ⟨fun hu => absurd (hm.symm.trans hu) nofun, fun _ => ⟨rfl, rfl⟩⟩
  completed r hm _ := (consistent_iff _).2 ⟨fun hu => absurd (hm.symm.trans hu) nofun, nofun⟩
  entered r us _ _ := (consistent_iff _).2 ⟨nofun, nofun⟩
  executed r c i hm hi h := by
    obtain hlost | hfrom := execute_from hm c hi
    · rw [hlost]; rfl
    · rw [consistent_iff, hfrom.rmode, hfrom.phase, hfrom.hold, hfrom.holdRs]
      exact ⟨fun hu => absurd (hm.symm.trans hu) nofun, ((consistent_iff r).1 h).2⟩

/-- A step leaves the receiver as it is, or lets it react to one event. -/
theorem step_rx {s t : State} (h : step s = .next t) :
    t.rx = s.rx ∨ ∃ ev, t.rx = s.rx.react s.cfg s.lvl ev := by
  obtain ⟨i, rest, _, hd, hexec⟩ | ⟨es, k, w, ev, _, _, rfl⟩ | rfl := step_cases h
  · exact .inl (exec_request_rx (s := { s with input := rest }) (decodeRequest_offWire hd) hexec)
  · exact .inr ⟨ev, settle_rx _⟩
  · exact .inl (settle_rx s)

/-- What the receiver keeps in every reaction, it keeps in every step. -/
theorem KeptByReceiver.step {P : Receiver → Prop} (hP : KeptByReceiver P) {s t : State}
    (h : Machine.step s = .next t) (hs : P s.rx) : P t.rx := by
  obtain ht | ⟨ev, ht⟩ := step_rx h
  · rwa [ht]
  · rw [ht]
    exact hP.react hs s.cfg s.lvl ev

/-- Settles O57: the receiver keeps its memories canonical, and no step writes host memory. -/
theorem stepsKeepMemoryCanonical : Obligations.StepsKeepMemoryCanonical := by
  intro s t hs h
  rw [memoryWf_iff] at hs ⊢
  obtain ⟨hrx, hhost⟩ := hs
  obtain ⟨_, _, _, _, hmem, _, _⟩ := everyStepOnlyAdds s t h
  exact ⟨receiverMemoryWf_kept.step h hrx, hmem ▸ hhost⟩

theorem settle_marksDistinct {s : State} (h : s.marksDistinct = true) :
    s.settle.marksDistinct = true := by
  simp only [State.marksDistinct, Bool.and_eq_true, decide_eq_true_eq] at h ⊢
  rw [settle_refused]
  exact ⟨nodup_settle_faults h.1, h.2⟩

theorem react_marksDistinct {s : State} (ev : Event) (h : s.marksDistinct = true) :
    (s.react ev).advance.marksDistinct = true := by
  simp only [State.marksDistinct, Bool.and_eq_true, decide_eq_true_eq] at h ⊢
  exact ⟨nodup_marks ev s.dir h.1, h.2⟩

/-- Settles O58: a step ends with an acceptance or with settling, which leave a live sequencer. -/
theorem stepsKeepTheMachineConsistent : Obligations.StepsKeepTheMachineConsistent := by
  intro s t _ hmarks hrx h
  refine ⟨?_, ?_, consistent_kept.step h hrx⟩
  · obtain ⟨i, rest, _, hd, hexec⟩ | ⟨es, k, w, ev, _, _, rfl⟩ | rfl := step_cases h
    · exact (acceptance_of_exec (decodeRequest_offWire hd) hexec).seq_live
    · exact settle_seq_live
    · exact settle_seq_live
  · obtain ⟨i, rest, _, hd, hexec⟩ | ⟨es, k, w, ev, _, _, rfl⟩ | rfl := step_cases h
    · exact (acceptance_of_exec (decodeRequest_offWire hd) hexec).marksDistinct hmarks
    · exact settle_marksDistinct (react_marksDistinct ev hmarks)
    · exact settle_marksDistinct hmarks

/-! ### The replay of the trace -/

/-- Replaying one event more is one reaction more. -/
theorem replay_append (c : Config) (es : List Event) (ev : Event) :
    replay c (es ++ [ev]) = (replay c es).react c ev := by
  simp [replay]

/-- Settles O59: an event on the bus is what replaying it gives; every other step leaves levels,
receiver and trace. -/
theorem receiverIsTheReplayOfTheTrace : Obligations.ReceiverIsTheReplayOfTheTrace := by
  refine ⟨fun c => rfl, fun s t hs h => ?_⟩
  obtain ⟨i, rest, _, hd, hexec⟩ | ⟨es, k, w, ev, _, _, rfl⟩ | rfl := step_cases h
  · rw [(acceptance_of_exec (decodeRequest_offWire hd) hexec).frame]
    exact hs
  · simp only [State.replayed, settle_lvl, settle_rx, settle_cfg, settle_trace, advance_lvl,
      advance_rx, advance_cfg, advance_trace, react_lvl, react_rx, react_cfg, react_trace,
      replay_append]
    rw [← show (⟨s.lvl, s.rx⟩ : Bus) = replay s.cfg s.trace from hs]
    rfl
  · simpa only [State.replayed, settle_lvl, settle_rx, settle_cfg, settle_trace] using hs

/-! ### Reset -/

/-- Settles O1: the table of R260 is the state `State.powerOn` writes out, Idle with nothing issued. -/
theorem powerCycleSetsTheResetTable : Obligations.PowerCycleSetsTheResetTable := by
  intro s hp t
  have hstep : step t = .next t := ((idleStepWithoutARequest t hp rfl).1 rfl)
  have hrefused : t.refused = [] := if_pos hp
  refine ⟨rfl, fun l => ?_, fun l => ?_, rfl, hrefused, rfl, rfl, rfl, rfl, rfl, rfl, rfl, rfl, rfl,
    fun _ => rfl, fun _ => rfl, rfl, rfl, rfl, rfl, rfl, rfl, hstep, rfl, rfl⟩
  · cases l <;> rfl
  · cases l <;> rfl

/-- Settles O2: `State.blockReset` puts the old receiver into the power cycle's state. -/
theorem blockResetKeepsTheReceiver : Obligations.BlockResetKeepsTheReceiver := fun _ => ⟨rfl, rfl⟩

/-- Settles O60: each invariant and parameter by evaluating `State.reset`. -/
theorem invariantsHoldAtReset : Obligations.InvariantsHoldAtReset := by
  refine ⟨rfl, rfl, rfl, rfl, rfl, ?_⟩
  decide

/-! ### One event -/

/-- The sequencer after an event of the list in hand. -/
theorem seq_after_event {s : State} {es : List Event} {k : Nat} {w : EndWrite} (ev : Event)
    (hs : s.seq = .running es k w) : (s.react ev).advance.settle.seq =
      if k + 1 < es.length then .running es (k + 1) w else .idle := by
  have hseq : (s.react ev).advance.seq = .running es (k + 1) w := by
    rw [advance_seq, react_seq, hs]; rfl
  split
  case isTrue h => rw [settle_live _ hseq h, hseq]
  case isFalse h => rw [settle_over _ hseq (Nat.le_of_not_lt h), finish_seq]

/-- Settles O50: the event's own effects on the lines, the marks and the receiver; settling adds to
them only at the end. -/
theorem eventStepEmitsTheNextEvent : Obligations.EventStepEmitsTheNextEvent := by
  intro s es k w ev hp hs hev
  have hrx : (s.react ev).advance.settle.rx = s.rx.react s.cfg s.lvl ev := settle_rx _
  have hwait (us : Nat) : s.rx.wait us =
      if s.rx.rmode = .unknown then s.rx else { s.rx with gap := s.rx.gap + us } := by
    split
    case isTrue hm => exact wait_unknown hm us
    case isFalse hm => exact wait_of_known hm us
  refine ⟨_, step_running hp hs hev, settle_trace _, seq_after_event ev hs, settle_cfg _,
    settle_refused _, settle_hostMem _, settle_input _, ?_, ?_, ?_, ?_, ?_, ?_, ?_⟩
  · rintro l d rfl
    rw [settle_dir, settle_lvl]
    exact ⟨get_set_same _ _ _, rfl, fun j hj => get_set_other _ _ hj⟩
  · rintro l v rfl
    rw [settle_dir, settle_lvl]
    refine ⟨get_set_same _ _ _, rfl, fun j hj => get_set_other _ _ hj, fun hl => ?_⟩
    exact mem_settle_faults ((mem_marks_iff _ s.dir s.faults).2 (.inr ⟨l, v, rfl, hl, rfl⟩))
  · intro n hn
    rw [settle_dir, settle_lvl]
    obtain rfl | rfl := hn <;> exact ⟨rfl, rfl⟩
  · rintro n rfl
    rw [hrx, react_of_not_latch (by simp [isLatch]), ← hwait]
  · rintro n rfl
    rw [hrx, react_of_not_latch (by simp [isLatch]), ← hwait]
  · intro hk
    have hseq : (s.react ev).advance.seq = .running es (k + 1) w := by
      rw [advance_seq, react_seq, hs]; rfl
    rw [settle_live _ hseq hk]
    exact ⟨rfl, fun m hm => (mem_marks_iff ev s.dir s.faults).1 hm⟩
  · intro hms hus hlatch
    rw [hrx, react_of_not_latch (by simpa [isLatch] using hlatch)]
    cases ev with
    | waitMs n => exact absurd rfl (hms n)
    | waitUs n => exact absurd rfl (hus n)
    | dir _ _ | lvl _ _ => rfl

/-- Settles O38: the mark, and an acceptance without events that leaves an Idle block Idle. -/
theorem reservedOpIsRecordedAndNothingElse : Obligations.ReservedOpIsRecordedAndNothingElse := by
  intro op s hs t
  have ht (o : Byte) : Host.Outcome.next (s.refuseReserved o) = t o :=
    congrArg Host.Outcome.next (accept_nil_nothing (s.refuse (.reservedOp o)) hs)
  refine ⟨ht _, ht op, ht op, ht op, ht op, fun rest hop => ?_⟩
  refine ⟨reservedRow op, decodeOperands_reserved rest hop, ?_⟩
  unfold reservedRow
  split_ifs with h0
  · rw [h0]; exact ht _
  all_goals exact ht op

end Sys2Proof.Proofs

/-! SUPPORT. The steps that emit an event list (spec/10_state.md R27), what a list makes of each
register, and the form in which a request sends transactions (spec/40_transport.md R120-R126). -/

namespace Sys2Proof.Proofs

open Sys2Proof.Machine Sys2Proof.Laws

/-! ### A list of events as one function -/

section ReactAll

variable (s : State)

@[simp] theorem reactAll_nil : s.reactAll [] = s := rfl

@[simp] theorem reactAll_cons (ev : Event) (es : List Event) :
    s.reactAll (ev :: es) = (s.react ev).reactAll es := rfl

theorem reactAll_append (es fs : List Event) :
    s.reactAll (es ++ fs) = (s.reactAll es).reactAll fs := List.foldl_append

/-- What one event leaves alone, a list leaves alone. -/
theorem reactAll_keeps {α : Type} (f : State → α) (hf : ∀ (t : State) ev, f (t.react ev) = f t)
    (es : List Event) : f (s.reactAll es) = f s := by
  induction es generalizing s with
  | nil => rfl
  | cons ev es ih => rw [reactAll_cons, ih, hf]

@[simp] theorem reactAll_cfg (es : List Event) : (s.reactAll es).cfg = s.cfg :=
  reactAll_keeps s State.cfg (fun _ _ => rfl) es

@[simp] theorem reactAll_ready (es : List Event) : (s.reactAll es).ready = s.ready :=
  reactAll_keeps s State.ready (fun _ _ => rfl) es

@[simp] theorem reactAll_refused (es : List Event) : (s.reactAll es).refused = s.refused :=
  reactAll_keeps s State.refused (fun _ _ => rfl) es

@[simp] theorem reactAll_hostMem (es : List Event) : (s.reactAll es).hostMem = s.hostMem :=
  reactAll_keeps s State.hostMem (fun _ _ => rfl) es

@[simp] theorem reactAll_input (es : List Event) : (s.reactAll es).input = s.input :=
  reactAll_keeps s State.input (fun _ _ => rfl) es

@[simp] theorem reactAll_trace (es : List Event) : (s.reactAll es).trace = s.trace ++ es := by
  induction es generalizing s with
  | nil => rw [reactAll_nil, List.append_nil]
  | cons ev es ih => rw [reactAll_cons, ih, react_trace, List.append_assoc, List.singleton_append]

theorem reactAll_lvl (es : List Event) :
    (s.reactAll es).lvl = es.foldl (fun x ev => ev.levels x) s.lvl := by
  induction es generalizing s with
  | nil => rfl
  | cons ev es ih => rw [reactAll_cons, ih]; rfl

theorem reactAll_bus (es : List Event) :
    (⟨(s.reactAll es).lvl, (s.reactAll es).rx⟩ : Bus) =
      es.foldl (Bus.react s.cfg) ⟨s.lvl, s.rx⟩ := by
  induction es generalizing s with
  | nil => rfl
  | cons ev es ih => rw [reactAll_cons, ih]; rfl

theorem reactAll_rx (es : List Event) :
    (s.reactAll es).rx = (es.foldl (Bus.react s.cfg) ⟨s.lvl, s.rx⟩).rx :=
  congrArg Bus.rx (reactAll_bus s es)

end ReactAll

/-- No event of the list sets a direction. -/
def DirFree (es : List Event) : Prop := ∀ l d, Event.dir l d ∉ es

theorem DirFree.append {es fs : List Event} (he : DirFree es) (hf : DirFree fs) :
    DirFree (es ++ fs) :=
  fun l d h => (List.mem_append.1 h).elim (he l d) (hf l d)

theorem DirFree.flatMap {α : Type} {f : α → List Event} (h : ∀ a, DirFree (f a)) (as : List α) :
    DirFree (as.flatMap f) := by
  intro l d hm
  obtain ⟨a, _, ha⟩ := List.mem_flatMap.1 hm
  exact h a l d ha

theorem DirFree.cons {ev : Event} {es : List Event} (h : DirFree (ev :: es)) :
    (∀ x, ev.dirs x = x) ∧ DirFree es := by
  refine ⟨fun x => ?_, fun l d hm => h l d (List.mem_cons_of_mem _ hm)⟩
  cases ev with
  | dir l d => exact absurd List.mem_cons_self (h l d)
  | _ => rfl

theorem reactAll_dir_of_dirFree (s : State) {es : List Event} (h : DirFree es) :
    (s.reactAll es).dir = s.dir := by
  induction es generalizing s with
  | nil => rfl
  | cons ev es ih => rw [reactAll_cons, ih _ h.cons.2, react_dir, h.cons.1]

/-- The marks a list leaves: those before, and one for each line set while it is no output (R233). -/
theorem mem_reactAll_faults (s : State) {es : List Event} (h : DirFree es) (m : FaultMark) :
    m ∈ (s.reactAll es).faults ↔ m ∈ s.faults ∨
      ∃ l v, Event.lvl l v ∈ es ∧ Lines.get s.dir l ≠ .output ∧ m = .levelOnNonOutput l := by
  induction es generalizing s with
  | nil => simp
  | cons ev es ih =>
    rw [reactAll_cons, ih _ h.cons.2, react_dir, h.cons.1, react_faults, mem_marks_iff, or_assoc]
    refine or_congr Iff.rfl ⟨?_, ?_⟩
    · rintro (⟨l, v, rfl, hl, hm⟩ | ⟨l, v, hmem, hl, hm⟩)
      · exact ⟨l, v, List.mem_cons_self, hl, hm⟩
      · exact ⟨l, v, List.mem_cons_of_mem _ hmem, hl, hm⟩
    · rintro ⟨l, v, hmem, hl, hm⟩
      obtain he | hmem := List.mem_cons.1 hmem
      · exact .inl ⟨l, v, he.symm, hl, hm⟩
      · exact .inr ⟨l, v, hmem, hl, hm⟩

/-! ### Running a list -/

theorem run_succ {M : Host.Core} {s t : M.State} (h : M.step s = .next t) (n : Nat) :
    M.run (n + 1) s = M.run n t := by
  simp only [Host.Core.run, h]

theorem runSteps_succ {s t : State} (h : step s = .next t) (n : Nat) :
    runSteps (n + 1) s = runSteps n t :=
  run_succ (M := Sys2Proof.core) h n

section Run

variable {es : List Event} {k : Nat} {w : EndWrite} {ev : Event}

theorem step_event_inside {s : State} (hp : PinMap.wellFormed s.cfg.pinmap = true)
    (hev : es[k]? = some ev) (hk : k + 1 < es.length) :
    step { s with seq := .running es k w } =
      .next { s.react ev with seq := .running es (k + 1) w } := by
  refine (step_running (s := { s with seq := .running es k w }) hp rfl hev).trans ?_
  rw [settle_live _ rfl hk]
  rfl

theorem step_event_last {s : State} (hp : PinMap.wellFormed s.cfg.pinmap = true)
    (hev : es[k]? = some ev) (hk : k + 1 = es.length) :
    step { s with seq := .running es k w } = .next ((s.react ev).finish w) := by
  refine (step_running (s := { s with seq := .running es k w }) hp rfl hev).trans ?_
  rw [settle_over _ rfl hk.ge]
  cases w <;> rfl

/-- `n` steps inside a list emit the next `n` events. -/
theorem runSteps_inside (s : State) (hp : PinMap.wellFormed s.cfg.pinmap = true) (n : Nat)
    (hk : k + n < es.length) : runSteps n { s with seq := .running es k w } =
      .next { s.reactAll ((es.drop k).take n) with seq := .running es (k + n) w } := by
  induction n generalizing s k with
  | zero => rfl
  | succ n ih =>
    have hlt : k < es.length := by omega
    have hev : es[k]? = some es[k] := List.getElem?_eq_getElem hlt
    have hrest := ih (k := k + 1) (s.react es[k]) hp (by omega)
    rw [Nat.add_assoc, Nat.add_comm 1 n] at hrest
    rw [List.drop_eq_getElem_cons hlt, List.take_succ_cons, reactAll_cons]
    exact (runSteps_succ (step_event_inside hp hev (by omega)) n).trans hrest

/-- The steps to the end of a list emit what is left of it, and end the request. -/
theorem runSteps_to_end (s : State) (hp : PinMap.wellFormed s.cfg.pinmap = true) (n : Nat)
    (hk : k + n + 1 = es.length) : runSteps (n + 1) { s with seq := .running es k w } =
      .next ((s.reactAll (es.drop k)).finish w) := by
  have hlt : k < es.length := by omega
  have hev : es[k]? = some es[k] := List.getElem?_eq_getElem hlt
  induction n generalizing s k with
  | zero =>
    rw [runSteps_succ (step_event_last hp hev hk), List.drop_eq_getElem_cons hlt,
      List.drop_of_length_le hk.ge]
    rfl
  | succ n ih =>
    have hlt' : k + 1 < es.length := by omega
    rw [List.drop_eq_getElem_cons hlt, reactAll_cons]
    exact (runSteps_succ (step_event_inside hp hev hlt') (n + 1)).trans
      (ih (s.react es[k]) hp (by omega) hlt' (List.getElem?_eq_getElem hlt'))

end Run

/-- Settles O56: the steps from the first event to the end of the list. -/
theorem smallStepsServeTheWholeRequest : Obligations.SmallStepsServeTheWholeRequest := by
  intro es w s hp hes
  obtain ⟨n, hn⟩ := Nat.exists_eq_succ_of_ne_zero (List.length_pos_iff.2 hes).ne'
  rw [hn]
  exact runSteps_to_end s hp n (by omega)

/-- The marks an end write records. -/
def endMarks : EndWrite → List FaultMark
  | .stringOutOfBounds a => [.stringOutOfBounds a]
  | .nothing => []
  | .sessionReady => []

theorem mem_finish_faults_iff (s : State) (w : EndWrite) (m : FaultMark) :
    m ∈ (s.finish w).faults ↔ m ∈ s.faults ∨ m ∈ endMarks w := by
  cases w with
  | stringOutOfBounds a =>
    rw [finish_faults, mem_insertMark, or_comm]
    simp [endMarks]
  | nothing | sessionReady => simp [finish_faults, endMarks]

/-- A machine Running a list without directions emits it, whatever the end write but INIT's. -/
theorem emitsMarking_of_running {u : State} {es : List Event} {w : EndWrite}
    (hp : PinMap.wellFormed u.cfg.pinmap = true) (hseq : u.seq = .running es 0 w) (hes : es ≠ [])
    (hdir : DirFree es) (hw : w ≠ .sessionReady) : EmitsMarking (endMarks w) es u := by
  have hrun := smallStepsServeTheWholeRequest es w u hp hes
  rw [← hseq] at hrun
  refine ⟨(u.reactAll es).finish w, hrun, finish_seq _ _, ?_, ?_, ?_, fun m => ?_, ?_, ?_, ?_, ?_,
    ?_, ?_⟩
  · rw [finish_trace, reactAll_trace]
  · rw [finish_lvl, reactAll_lvl]
  · rw [finish_rx, reactAll_rx]
  · rw [mem_finish_faults_iff, mem_reactAll_faults u hdir, or_assoc]
    exact or_congr Iff.rfl or_comm
  · rw [finish_cfg, reactAll_cfg]
  · rw [finish_ready, reactAll_ready, decide_eq_false hw, Bool.or_false]
  · rw [finish_dir, reactAll_dir_of_dirFree u hdir]
  · rw [finish_refused, reactAll_refused]
  · rw [finish_hostMem, reactAll_hostMem]
  · rw [finish_input, reactAll_input]

/-! ### Transactions -/

theorem transport_eq (c : Config) (rs : Level) (b : Byte) :
    transport c rs b = transactionEvents c rs b := by
  simp [transport, transactionEvents, hpwEvents, pulse]

theorem stringEvents_eq (c : Config) (cs : List Byte) : stringEvents c cs = charTransactions c cs :=
  congrArg cs.flatMap (funext (transport_eq c true))

theorem transactionEvents_ne_nil (c : Config) (rs : Level) (b : Byte) :
    transactionEvents c rs b ≠ [] := nofun

theorem dirFree_transactionEvents (c : Config) (rs : Level) (b : Byte) :
    DirFree (transactionEvents c rs b) := by
  intro l d
  simp [transactionEvents]

theorem dirFree_charTransactions (c : Config) (cs : List Byte) : DirFree (charTransactions c cs) :=
  DirFree.flatMap (dirFree_transactionEvents c true) cs

theorem charTransactions_ne_nil (c : Config) {cs : List Byte} (h : cs ≠ []) :
    charTransactions c cs ≠ [] := by
  obtain ⟨b, cs, rfl⟩ := List.exists_cons_of_ne_nil h
  exact List.append_ne_nil_of_left_ne_nil (transactionEvents_ne_nil c true b) _

theorem charTransactions_length (c : Config) (cs : List Byte) :
    (charTransactions c cs).length = 15 * cs.length := by
  rw [← stringEvents_eq, stringEvents_length]

/-- The levels a transaction leaves: RS and E as it sets them, the low nibble on the data lines. -/
theorem levels_after_transaction (c : Config) (rs : Level) (b : Byte) (x : Lines Level) :
    (transactionEvents c rs b).foldl (fun x ev => ev.levels x) x =
      ⟨rs, false, b.getLsbD 0, b.getLsbD 1, b.getLsbD 2, b.getLsbD 3⟩ := rfl

/-- Settles O14: by the list itself, for each level of RS and each bit. -/
theorem transactionHasItsShape : Obligations.TransactionHasItsShape := by
  intro c rs b
  rw [transport_eq]
  refine ⟨rfl, ?_, ?_, ?_, ?_, rfl⟩
  · cases rs <;> simp [transactionEvents]
  · simp [transactionEvents]
  · simp [transactionEvents]
  · simp [transactionEvents]

/-! ### Requests that transport -/

section Sends

variable {s : State} {i : Instr} {op : Byte} {es : List Event}

theorem preMarked_cfg (op : Byte) (s : State) : (s.preMarked op).cfg = s.cfg := by
  unfold State.preMarked
  split <;> rfl

theorem checkReady_eq_preMarked (hes : es ≠ []) : s.checkReady op es = s.preMarked op := by
  simp [State.checkReady, State.preMarked, hes]

theorem acceptTransports_of_ne_nil {w : EndWrite} (hes : es ≠ []) : s.acceptTransports op es w =
    { s.preMarked op with seq := .running es 0 w } := by
  rw [State.acceptTransports, checkReady_eq_preMarked hes, accept_of_ne_nil _ _ hes]

/-- A request whose list is empty and has no end write is a silent no-op in Idle. -/
theorem acceptTransports_nil (hs : s.seq = .idle) : s.acceptTransports op [] .nothing = s := by
  rw [State.acceptTransports, checkReady_nil, accept_nil_nothing s hs]

theorem emits_starting (hp : PinMap.wellFormed s.cfg.pinmap = true) (hes : es ≠ [])
    (hdir : DirFree es) : Emits es ((s.preMarked op).starting es) := by
  refine emitsMarking_of_running (w := .nothing) ?_ rfl hes hdir nofun
  rw [← preMarked_cfg op] at hp
  exact hp

/-- A request that transports the list `es` starts it, marked before a session, and then emits it. -/
theorem sends_transports (hp : PinMap.wellFormed s.cfg.pinmap = true) (hes : es ≠ [])
    (hdir : DirFree es) (h : exec i s = .next (s.acceptTransports op es .nothing)) :
    exec i s = .next ((s.preMarked op).starting es) ∧ Emits es ((s.preMarked op).starting es) := by
  refine ⟨?_, emits_starting hp hes hdir⟩
  rw [h, acceptTransports_of_ne_nil hes]
  rfl

/-- A request that writes the characters `cs` sends one character transaction for each. -/
theorem sends_chars (hp : PinMap.wellFormed s.cfg.pinmap = true) {cs : List Byte} (hcs : cs ≠ [])
    (h : exec i s = .next (s.acceptChars op cs .nothing)) :
    exec i s = .next ((s.preMarked op).starting (charTransactions s.cfg cs)) ∧
      Emits (charTransactions s.cfg cs) ((s.preMarked op).starting (charTransactions s.cfg cs)) := by
  rw [State.acceptChars, stringEvents_eq] at h
  exact sends_transports hp (charTransactions_ne_nil _ hcs) (dirFree_charTransactions _ cs) h

theorem sends_nothing (hs : s.seq = .idle)
    (h : exec i s = .next (s.acceptTransports op [] .nothing)) : exec i s = .next s := by
  rw [h, acceptTransports_nil hs]

end Sends

/-- Settles O12: one transaction with RS low. -/
theorem sendCmdEmitsOneTransaction : Obligations.SendCmdEmitsOneTransaction := by
  intro b s hp _ es
  obtain ⟨hexec, hemits⟩ := sends_transports (i := .sendCmd b) (op := 0x02#8) hp
    (transactionEvents_ne_nil s.cfg false b) (dirFree_transactionEvents s.cfg false b)
    (by rw [← transport_eq]; rfl)
  exact ⟨hexec, hemits, levels_after_transaction s.cfg false b s.lvl⟩

/-- Settles O13: one transaction with RS high. -/
theorem sendCharEmitsOneTransaction : Obligations.SendCharEmitsOneTransaction := by
  intro b s hp _ es
  obtain ⟨hexec, hemits⟩ := sends_transports (i := .sendChar b) (op := 0x03#8) hp
    (transactionEvents_ne_nil s.cfg true b) (dirFree_transactionEvents s.cfg true b)
    (by rw [← transport_eq]; rfl)
  exact ⟨hexec, hemits, levels_after_transaction s.cfg true b s.lvl⟩

/-- Settles O11: four levels of data lines, none of which the receiver observes. -/
theorem hpwDrivesTheDataLines : Obligations.HpwDrivesTheDataLines := by
  intro v s hp _ es
  refine ⟨rfl, emitsMarking_of_running (w := .nothing) hp rfl nofun ?_ nofun, ?_, ?_⟩
  · intro l d
    simp [es]
  · simp [es, Bus.react, react_of_not_latch, isLatch]
  · simp [exec, execHpw, hpwEvents]

end Sys2Proof.Proofs

/-! SUPPORT. What INIT, the Addressing Engine and the encoders send: for each request the transactions
are those of the spec's own formula (spec/41_init.md, spec/42_addressing.md, spec/43_encoders.md). -/

namespace Sys2Proof.Proofs

open Sys2Proof.Machine Sys2Proof.Laws

/-! ### INIT -/

theorem initEvents_eq (c : Config) : initEvents c = initTransactions c := by
  simp [initEvents, initTransactions, commandEvents, transport_eq, allLines, hpwEvents, pulse]

theorem initTransactions_length (c : Config) : (initTransactions c).length = 77 := rfl

theorem totalWait_append (es fs : List Event) : totalWait (es ++ fs) = totalWait es + totalWait fs := by
  simp [totalWait]

theorem totalWait_transactionEvents (c : Config) (rs : Level) (b : Byte) :
    totalWait (transactionEvents c rs b) = 2 * (c.tPulseMs * 1000) := by
  simp only [totalWait, transactionEvents, List.map_cons, List.map_nil, List.sum_cons, List.sum_nil,
    Event.waitMicros]
  omega

theorem totalWait_initTransactions (c : Config) : totalWait (initTransactions c) =
    1000 * (c.tPowerMs + 9 * c.tPulseMs + c.tClearMs) + c.tFsetUs + c.tDctlUs := by
  simp only [initTransactions, totalWait_append, totalWait_transactionEvents]
  simp only [totalWait, List.map_cons, List.map_nil, List.sum_cons, List.sum_nil, Event.waitMicros]
  omega

theorem exec_init (s : State) :
    exec .init s = .next { s with seq := .running (initTransactions s.cfg) 0 .sessionReady } := by
  have hne : initEvents s.cfg ≠ [] := by rw [initEvents_eq]; nofun
  rw [← initEvents_eq, ← accept_of_ne_nil s _ hne]
  rfl

/-- The first `n` steps of INIT, short of the last. -/
theorem runSteps_init (s : State) (hp : PinMap.wellFormed s.cfg.pinmap = true) {n : Nat}
    (hn : n < 77) :
    runSteps n { s with seq := .running (initTransactions s.cfg) 0 .sessionReady } =
      .next { s.reactAll ((initTransactions s.cfg).take n) with
        seq := .running (initTransactions s.cfg) n .sessionReady } := by
  have h := runSteps_inside (es := initTransactions s.cfg) (k := 0) (w := .sessionReady) s hp n
    (by rw [initTransactions_length]; omega)
  rwa [Nat.zero_add, List.drop_zero] at h

/-- All 77 steps of INIT. -/
theorem runSteps_init_all (s : State) (hp : PinMap.wellFormed s.cfg.pinmap = true) :
    runSteps 77 { s with seq := .running (initTransactions s.cfg) 0 .sessionReady } =
      .next ((s.reactAll (initTransactions s.cfg)).finish .sessionReady) :=
  smallStepsServeTheWholeRequest (initTransactions s.cfg) .sessionReady s hp (List.cons_ne_nil _ _)

/-- Levels set on outputs mark nothing. -/
theorem reactAll_faults_of_outputs (s : State) (h : ∀ l, Lines.get s.dir l = .output)
    {es : List Event} (hfree : DirFree es) : (s.reactAll es).faults = s.faults := by
  induction es generalizing s with
  | nil => rfl
  | cons ev es ih =>
    have hdir : (s.react ev).dir = s.dir := hfree.cons.1 s.dir
    have hmarks : ev.marks s.dir s.faults = s.faults := by
      cases ev with
      | lvl l v => exact if_pos (h l)
      | _ => rfl
    rw [reactAll_cons, ih _ (by rwa [hdir]) hfree.cons.2, react_faults, hmarks]

/-- Step 1 of INIT makes every line an output. -/
theorem initTransactions_take (c : Config) : (initTransactions c).take 6 =
    [.dir .rs .output, .dir .e .output, .dir .d4 .output, .dir .d5 .output, .dir .d6 .output,
      .dir .d7 .output] := rfl

theorem dirFree_initTransactions_drop (c : Config) : DirFree ((initTransactions c).drop 6) := by
  intro l d
  simp [initTransactions, transactionEvents]

/-- The directions and the marks that INIT leaves: it sets a level on outputs only. -/
theorem reactAll_initTransactions (s : State) :
    (∀ l, Lines.get (s.reactAll (initTransactions s.cfg)).dir l = .output) ∧
      (s.reactAll (initTransactions s.cfg)).faults = s.faults := by
  have hout (l : Line) :
      Lines.get (s.reactAll ((initTransactions s.cfg).take 6)).dir l = .output := by
    rw [initTransactions_take]
    cases l <;> rfl
  have hfaults : (s.reactAll ((initTransactions s.cfg).take 6)).faults = s.faults := by
    rw [initTransactions_take]
    simp [Event.marks]
  rw [← List.take_append_drop 6 (initTransactions s.cfg), reactAll_append]
  have hfree := dirFree_initTransactions_drop s.cfg
  rw [reactAll_dir_of_dirFree _ hfree, reactAll_faults_of_outputs _ hout hfree]
  exact ⟨hout, hfaults⟩

/-- The levels INIT leaves are those of its last transaction. -/
theorem levels_after_init (c : Config) (x : Lines Level) :
    (initTransactions c).foldl (fun x ev => ev.levels x) x =
      ⟨false, false, c.cmdEntryMode.getLsbD 0, c.cmdEntryMode.getLsbD 1,
        c.cmdEntryMode.getLsbD 2, c.cmdEntryMode.getLsbD 3⟩ := by
  rw [initTransactions, List.foldl_append, levels_after_transaction]

/-- Settles O16: the list of INIT, run to each of its events and to its end. -/
theorem initRunsItsStrictSequence : Obligations.InitRunsItsStrictSequence := by
  intro s hp _ es u
  refine ⟨exec_init s, initTransactions_length s.cfg, totalWait_initTransactions s.cfg, fun hc => ?_,
    fun k hk => ?_, ?_⟩
  · rw [totalWait_initTransactions, hc]
    decide
  · exact ⟨_, runSteps_init s hp hk, reactAll_ready _ _, reactAll_trace _ _⟩
  · obtain ⟨hdir, hfaults⟩ := reactAll_initTransactions s
    refine ⟨_, runSteps_init_all s hp, finish_seq _ _, ?_, ?_, fun l => ?_, ?_, ?_,
      (finish_faults _ _).trans hfaults, ?_⟩
    · rw [finish_ready, decide_eq_true rfl, Bool.or_true]
    · rw [finish_trace, reactAll_trace]
    · rw [finish_dir, hdir l]
    · rw [finish_lvl, reactAll_lvl, levels_after_init]
    · rw [finish_rx, reactAll_rx]
    · rw [finish_refused, finish_cfg, finish_hostMem, finish_input, reactAll_refused, reactAll_cfg,
        reactAll_hostMem, reactAll_input]
      exact ⟨rfl, rfl, rfl, rfl⟩

/-! ### The Addressing Engine -/

/-- Settles O20: `addr_cmd` is the sum mod 256, so its bit 7 is the sum's. -/
theorem addressCalculatorBytes : Obligations.AddressCalculatorBytes := by
  have hsum (base cell : Byte) :
      (addrCmd base cell).toNat = (0x80 + base.toNat + cell.toNat) % 256 := by
    simp [addrCmd, BitVec.toNat_add, Nat.add_mod]
  have hbit (b : Byte) : b.getLsbD 7 = decide (128 ≤ b.toNat) := by
    revert b; decide +kernel
  refine ⟨fun base cell => ⟨hsum base cell, fun h => ?_, fun hb h => ?_⟩, rfl, rfl, rfl, rfl, ?_⟩
  · rw [hbit, hsum, decide_eq_true_eq]
    omega
  · rw [hbit, hsum, decide_eq_decide]
    omega
  · intro line h
    have hlines : State.reset.cfg.displayLines = 4 := rfl
    rw [lineBase, if_neg]
    rw [hlines]
    bv_omega

theorem addrCmd_eq (base cell : Byte) :
    addrCmd base cell = BitVec.ofNat 8 (0x80 + base.toNat + cell.toNat) := by
  unfold addrCmd
  bv_omega

theorem cgCmd_eq (slot : Byte) : cgCmd slot = BitVec.ofNat 8 (0x40 + 8 * slot.toNat) := by
  unfold cgCmd
  apply BitVec.eq_of_toNat_eq
  simp [BitVec.toNat_add, BitVec.toNat_mul]

theorem lineBase_some {c : Config} {line base : Byte} (h1 : 1 ≤ line.toNat)
    (h2 : line.toNat ≤ c.displayLines) (hb : c.lineBases[line.toNat - 1]? = some base) :
    lineBase c line = some base := by
  rw [lineBase, if_pos ⟨h1, h2⟩, hb]

theorem lineBase_none {c : Config} {line : Byte}
    (h : line.toNat = 0 ∨ c.displayLines < line.toNat ∨ c.lineBases.length < line.toNat) :
    lineBase c line = none := by
  unfold lineBase
  split
  · exact List.getElem?_eq_none (by omega)
  · rfl

theorem goToEvents_some {c : Config} {line base cell : Byte} (h : lineBase c line = some base) :
    goToEvents c line cell =
      transactionEvents c false (BitVec.ofNat 8 (0x80 + base.toNat + cell.toNat)) := by
  simp only [goToEvents, h, commandEvents, transport_eq, addrCmd_eq]

theorem goToEvents_none {c : Config} {line cell : Byte} (h : lineBase c line = none) :
    goToEvents c line cell = [] := by
  simp only [goToEvents, h]

/-- Settles O22: one transaction for a line with a base, none for any other. -/
theorem gotoSendsItsAddressCommand : Obligations.GotoSendsItsAddressCommand := by
  intro line cell s hp hs
  refine ⟨fun base h1 h2 hb => ?_, fun h => ?_⟩
  · refine sends_transports hp (transactionEvents_ne_nil _ _ _) (dirFree_transactionEvents _ _ _) ?_
    rw [← goToEvents_some (lineBase_some h1 h2 hb)]
    rfl
  · refine sends_nothing (op := 0x05#8) hs ?_
    rw [← goToEvents_none (c := s.cfg) (cell := cell) (lineBase_none h)]
    rfl

/-- Settles O23: GOTO's list, then the spaces. -/
theorem gotoClearSendsCommandAndSpaces : Obligations.GotoClearSendsCommandAndSpaces := by
  intro line cell count s hp hs spaces
  have hexec : exec (.goToClear line cell count) s =
      .next (s.acceptTransports 0x06#8 (goToEvents s.cfg line cell ++ spaces) .nothing) := by
    simp only [spaces, ← stringEvents_eq]
    rfl
  have hfree : DirFree spaces := dirFree_charTransactions _ _
  refine ⟨fun base h1 h2 hb => ?_, fun h => ⟨fun h0 => ?_, fun h0 => ?_⟩⟩
  · rw [goToEvents_some (lineBase_some h1 h2 hb)] at hexec
    have hsends := sends_transports hp
      (List.append_ne_nil_of_left_ne_nil (transactionEvents_ne_nil _ _ _) spaces)
      ((dirFree_transactionEvents _ _ _).append hfree) hexec
    refine ⟨hsends.1, hsends.2, ?_⟩
    rw [List.length_append, charTransactions_length, List.length_replicate, Nat.mul_add]
    rfl
  · rw [goToEvents_none (lineBase_none h)] at hexec
    subst h0
    exact sends_nothing hs hexec
  · rw [goToEvents_none (lineBase_none h)] at hexec
    refine sends_transports hp (charTransactions_ne_nil _ fun hnil => h0 ?_) hfree hexec
    exact BitVec.eq_of_toNat_eq (by simpa using hnil)

theorem createCharEvents_eq (c : Config) (slot : Byte) (m : Bitmap) : createCharEvents c slot m =
    transactionEvents c false (BitVec.ofNat 8 (0x40 + 8 * slot.toNat)) ++ [.waitUs c.tCgsetUs] ++
      m.toList.flatMap (fun b => transactionEvents c true b ++ [.waitUs c.tCgbyteUs]) ++
      transactionEvents c false 0x80#8 ++ [.waitUs c.tCgrestoreUs] := by
  simp only [createCharEvents, commandEvents, charEvents, transport_eq, cgCmd_eq]

/-- Settles O24: the list of a slot there is, and the mark of any other. -/
theorem createCharSendsTheGlyph : Obligations.CreateCharSendsTheGlyph := by
  intro slot m s hp hs
  refine ⟨fun hslot => ?_, fun hc => ?_, fun hslot => ?_⟩
  · intro es
    have hes : createCharEvents s.cfg slot m = es := createCharEvents_eq s.cfg slot m
    have hfree : DirFree es := by
      have hwait (n : Nat) : DirFree [.waitUs n] := fun l d => by simp
      exact ((((dirFree_transactionEvents _ _ _).append (hwait _)).append (DirFree.flatMap
        (fun b => (dirFree_transactionEvents _ _ b).append (hwait _)) _)).append
        (dirFree_transactionEvents _ _ _)).append (hwait _)
    have htotal : totalWait es = 20000 * s.cfg.tPulseMs + s.cfg.tCgsetUs + 8 * s.cfg.tCgbyteUs +
        s.cfg.tCgrestoreUs := by
      simp only [es, totalWait_append, List.flatMap_cons, List.flatMap_nil,
        totalWait_transactionEvents]
      simp only [totalWait, List.map_cons, List.map_nil, List.sum_cons, List.sum_nil,
        Event.waitMicros]
      omega
    have hexec : exec (.createChar slot m) s =
        .next (s.acceptTransports 0x07#8 es .nothing) := by
      rw [← hes]
      simp only [exec, execCreateChar, if_neg (Nat.not_le.mpr hslot)]
    have hsends := sends_transports hp
      (List.append_ne_nil_of_right_ne_nil _ (List.cons_ne_nil _ _)) hfree hexec
    refine ⟨hsends.1, hsends.2, rfl, htotal, fun hc => ?_⟩
    rw [htotal, hc]
    rfl
  · rw [hc]; rfl
  · simp only [exec, execCreateChar, if_pos hslot]
    exact congrArg Host.Outcome.next (accept_nil_nothing (s.refuse (.slotOutOfRange slot)) hs)

/-- Settles O26: the four valid pairs each send their command. -/
theorem shiftSendsItsCommand : Obligations.ShiftSendsItsCommand := by
  intro dir kind s hp hs
  have hvalid : (dir = 0#8 ∨ dir = 1#8) ∧ (kind = 0#8 ∨ kind = 1#8) ↔
      dir.toNat ≤ 1 ∧ kind.toNat ≤ 1 := by bv_omega
  rw [hvalid]
  refine ⟨fun h => ?_, fun h => ?_⟩
  · have hcmd : shiftCmd dir kind = BitVec.ofNat 8 (0x10 + 8 * kind.toNat + 4 * dir.toNat) := by
      apply BitVec.eq_of_toNat_eq
      simp [shiftCmd, BitVec.toNat_add, BitVec.toNat_mul]
    refine sends_transports hp (transactionEvents_ne_nil _ _ _) (dirFree_transactionEvents _ _ _) ?_
    rw [← hcmd, ← transport_eq]
    simp only [exec, execShift, shiftEvents, if_pos h, commandEvents]
  · refine sends_nothing (op := 0x08#8) hs ?_
    simp only [exec, execShift, shiftEvents, if_neg h]

end Sys2Proof.Proofs

/-! SUPPORT. The characters of the integer and string encoders (spec/43_encoders.md R190-R207): each
digit sequence is the standard text of its operand. -/

namespace Sys2Proof.Proofs

open Sys2Proof.Machine Sys2Proof.Laws

/-! ### Strings -/

/-- The bytes `cs` stand in memory from address `a` on, and none of them is the terminator. -/
def StringAt (m : List Host.Cell) (a : Nat) (cs : List Byte) : Prop :=
  (∀ k, k < cs.length → cs[k]? = some (HostMem.read m (a + k))) ∧ 0x00#8 ∉ cs

theorem StringAt.cons {m : List Host.Cell} {a : Nat} {b : Byte} {cs : List Byte}
    (h : StringAt m a (b :: cs)) : HostMem.read m a = b ∧ b ≠ 0x00#8 ∧ StringAt m (a + 1) cs := by
  obtain ⟨hread, hzero⟩ := h
  refine ⟨?_, fun hb => hzero (hb ▸ List.mem_cons_self), fun k hk => ?_,
    fun hmem => hzero (List.mem_cons_of_mem _ hmem)⟩
  · exact (Option.some.inj (hread 0 (Nat.succ_pos _))).symm
  · have hk' := hread (k + 1) (Nat.succ_lt_succ hk)
    rwa [List.getElem?_cons_succ, Nat.add_comm k 1, ← Nat.add_assoc] at hk'

/-- A scan takes the characters that stand at its address, and goes on after them. -/
theorem scanString_append {m : List Host.Cell} {a : Nat} {cs : List Byte} (h : StringAt m a cs)
    (n : Nat) : scanString m (cs.length + n) a =
      (cs ++ (scanString m n (a + cs.length)).1, (scanString m n (a + cs.length)).2) := by
  induction cs generalizing a with
  | nil => rw [List.length_nil, Nat.zero_add, Nat.add_zero, List.nil_append]
  | cons b cs ih =>
    obtain ⟨hread, hb, hcs⟩ := h.cons
    rw [List.length_cons, Nat.add_right_comm, scanString, hread]
    simp only [if_neg hb, ih hcs]
    rw [Nat.add_assoc, Nat.add_comm 1, List.cons_append]

theorem scanString_terminator {m : List Host.Cell} {a n : Nat} (hn : 0 < n)
    (h : HostMem.read m a = 0x00#8) : scanString m n a = ([], .nothing) := by
  obtain ⟨n, rfl⟩ := Nat.exists_eq_add_one.2 hn
  rw [scanString, if_pos h]

theorem exec_writeStr {s : State} {ref : Word16} {cs : List Byte} {w : EndWrite}
    (h : stringAt s ref = (cs, w)) :
    exec (.writeStr ref) s = .next (s.acceptTransports 0x09#8 (charTransactions s.cfg cs) w) := by
  rw [← stringEvents_eq]
  exact congrArg (fun p : List Byte × EndWrite =>
    Host.Outcome.next (s.acceptChars 0x09#8 p.1 p.2)) h

/-- Settles O28: the scan ends at the terminator, which is inside the window. -/
theorem writeStrSendsTheString : Obligations.WriteStrSendsTheString := by
  intro ref cs s hp hs
  refine ⟨fun href => ?_, fun href hlen hread hzero hterm => ?_⟩
  · exact sends_nothing hs (exec_writeStr (cs := []) (by rw [stringAt, if_pos href]))
  · have hscan : stringAt s ref = (cs, .nothing) := by
      obtain ⟨n, hn⟩ := Nat.exists_eq_add_of_lt hlen
      have hleft : s.cfg.hostMemSize - ref.toNat = cs.length + (n + 1) := by omega
      rw [stringAt, if_neg href, hleft, scanString_append ⟨hread, hzero⟩,
        scanString_terminator (Nat.succ_pos n) hterm, List.append_nil]
    have hexec := exec_writeStr hscan
    refine ⟨fun hnil => ?_, fun hne => ?_⟩
    · subst hnil
      exact sends_nothing hs hexec
    · exact sends_transports hp (charTransactions_ne_nil _ hne) (dirFree_charTransactions _ _) hexec

/-- Settles O29: the scan ends where host memory does. -/
theorem writeStrWithoutTerminatorIsMarked : Obligations.WriteStrWithoutTerminatorIsMarked := by
  intro ref cs s hp hs href
  refine ⟨fun hsize => ?_, fun hne hlen hread hzero => ?_⟩
  · have hscan : stringAt s ref = ([], .stringOutOfBounds ref.toNat) := by
      rw [stringAt, if_neg href, Nat.sub_eq_zero_of_le hsize, scanString]
    rw [exec_writeStr hscan, State.acceptTransports, charTransactions, List.flatMap_nil,
      checkReady_nil, accept_nil, hs]
    rfl
  · have hscan : stringAt s ref = (cs, .stringOutOfBounds s.cfg.hostMemSize) := by
      have hleft : s.cfg.hostMemSize - ref.toNat = cs.length + 0 := by omega
      rw [stringAt, if_neg href, hleft, scanString_append ⟨hread, hzero⟩, scanString,
        List.append_nil, hlen]
    have hes := charTransactions_ne_nil s.cfg hne
    refine ⟨?_, ?_⟩
    · rw [exec_writeStr hscan, acceptTransports_of_ne_nil hes]
    · refine emitsMarking_of_running (w := .stringOutOfBounds _) ?_ rfl hes
        (dirFree_charTransactions _ _) nofun
      rw [← preMarked_cfg 0x09#8] at hp
      exact hp

/-! ### Decimal digits -/

/-- The reverse buffer holds Mathlib's digits where it is long enough. -/
theorem reverseDigits_eq {n m : Nat} (h : m < 10 ^ n) : reverseDigits n m = Nat.digits 10 m := by
  induction n generalizing m with
  | zero =>
    obtain rfl : m = 0 := by omega
    rw [reverseDigits, Nat.digits_zero]
  | succ n ih =>
    rw [reverseDigits]
    split
    case isTrue h0 => rw [h0, Nat.digits_zero]
    case isFalse h0 =>
      rw [Nat.digits_def' (by decide) (Nat.pos_of_ne_zero h0),
        ih (Nat.div_lt_of_lt_mul (by rwa [pow_succ'] at h))]

theorem dchar_eq (d : Nat) : dchar d = BitVec.ofNat 8 (0x30 + d) :=
  (BitVec.ofNat_add 0x30 d).symm

/-- WRITE_DEC's characters are the base-10 text, for a magnitude of at most ten digits. -/
theorem decChars_eq {v : Int} (h : v.natAbs < 10 ^ 10) : decChars v = intText v := by
  rw [decChars, intText]
  by_cases h0 : v = 0
  · rw [h0]; rfl
  · have hn : natText v.natAbs = (reverseDigits 10 v.natAbs).reverse.map dchar := by
      rw [natText, if_neg (Int.natAbs_ne_zero.2 h0), reverseDigits_eq h]
      rfl
    rw [if_neg h0, hn]
    split <;> rfl

theorem natText_ne_nil (n : Nat) : natText n ≠ [] := by
  unfold natText
  split
  case isTrue => exact List.cons_ne_nil _ _
  case isFalse h =>
    rwa [Ne, List.map_eq_nil_iff, List.reverse_eq_nil_iff, Nat.digits_eq_nil_iff_eq_zero]

theorem intText_ne_nil (v : Int) : intText v ≠ [] := by
  unfold intText
  split
  · exact List.cons_ne_nil _ _
  · exact natText_ne_nil _

/-- Settles O30: an s32 has at most ten digits. -/
theorem writeDecSendsBaseTenText : Obligations.WriteDecSendsBaseTenText := by
  intro v s hp _
  refine sends_chars hp (intText_ne_nil _) ?_
  have hlow := BitVec.le_toInt v
  have hhigh := BitVec.toInt_lt (x := v)
  rw [← decChars_eq (by omega)]
  rfl

/-- Settles O31: each quotient of v mod 10^(k+1) is a digit of v mod 10000. -/
theorem writeDec4SendsFourDigits : Obligations.WriteDec4SendsFourDigits := by
  intro v s hp _ n
  have hchars : dec4Chars v.toNat = [BitVec.ofNat 8 (0x30 + n / 1000),
      BitVec.ofNat 8 (0x30 + n / 100 % 10), BitVec.ofNat 8 (0x30 + n / 10 % 10),
      BitVec.ofNat 8 (0x30 + n % 10)] := by
    have h2 : v.toNat % 1000 / 100 = n / 100 % 10 := by omega
    have h1 : v.toNat % 100 / 10 = n / 10 % 10 := by omega
    have h0 : v.toNat % 10 = n % 10 := by omega
    simp only [dec4Chars, List.map_cons, List.map_nil, dchar_eq, Nat.reduceAdd, Nat.reducePow,
      Nat.div_one, h2, h1, h0, n]
  have hsends := sends_chars (i := .writeDec4 v) hp (List.cons_ne_nil _ _) (by rw [← hchars]; rfl)
  exact ⟨hsends.1, hsends.2, charTransactions_length _ _⟩

/-! ### Binary and hexadecimal digits -/

theorem bitChar_eq (v : Byte) : bitChar v = fun i => if v.getLsbD i then 0x31#8 else 0x30#8 := by
  funext i
  unfold bitChar
  cases v.getLsbD i <;> rfl

/-- Settles O32: one character a bit. -/
theorem writeBinSendsEightBits : Obligations.WriteBinSendsEightBits := by
  intro v s hp _
  have hsends := sends_chars (i := .writeBin v) (op := 0x0C#8) (cs := binChars v) hp
    (List.cons_ne_nil _ _) rfl
  rw [binChars, bitChar_eq] at hsends
  exact ⟨hsends.1, hsends.2, charTransactions_length _ _⟩

/-- The characters from bit `h` down are the last `h + 1` of the eight. -/
theorem map_range_reverse_eq_drop {α : Type} (f : Nat → α) {h : Nat} (hh : h ≤ 7) :
    (List.range (h + 1)).reverse.map f = ([7, 6, 5, 4, 3, 2, 1, 0].map f).drop (7 - h) := by
  rw [← List.map_drop]
  congr 1
  decide +revert

theorem topBit_eq_some {v : Byte} {h : Nat} (hh : h ≤ 7) (hset : v.getLsbD h = true)
    (habove : ∀ j, h < j → v.getLsbD j = false) : topBit v = some h := by
  rw [topBit, List.find?_eq_some_iff_append]
  refine ⟨hset, [7, 6, 5, 4, 3, 2, 1, 0].take (7 - h), (List.range h).reverse, ?_, fun j hj => ?_⟩
  · clear hset habove
    decide +revert
  · have hlt : h < j := by
      clear hset habove
      interval_cases h <;> simp at hj <;> omega
    simp [habove j hlt]

/-- Settles O33: the characters start at the highest set bit. -/
theorem writeBinShortSendsNoLeadingZero : Obligations.WriteBinShortSendsNoLeadingZero := by
  intro v s hp hs
  refine ⟨fun h0 => ?_, fun h hh hset habove => ?_⟩
  · subst h0
    exact sends_nothing (op := 0x0D#8) hs rfl
  · have hchars : binShortChars v = ([7, 6, 5, 4, 3, 2, 1, 0].map fun i =>
        if v.getLsbD i then 0x31#8 else 0x30#8).drop (7 - h) := by
      rw [binShortChars, topBit_eq_some hh hset habove, ← bitChar_eq]
      exact map_range_reverse_eq_drop _ hh
    have hlen : (binShortChars v).length = h + 1 := by
      rw [hchars, List.length_drop, List.length_map]
      change 8 - (7 - h) = h + 1
      omega
    have hsends := sends_chars (i := .writeBinShort v) (op := 0x0D#8) (cs := binShortChars v) hp
      (List.ne_nil_of_length_pos (by omega)) rfl
    have hlength : (charTransactions s.cfg (binShortChars v)).length = 15 * (h + 1) := by
      rw [charTransactions_length, hlen]
    rw [hchars] at hsends hlength
    exact ⟨hsends.1, hsends.2, hlength⟩

theorem hchar_eq (d : Nibble) : hchar d =
    if d.toNat < 10 then BitVec.ofNat 8 (0x30 + d.toNat) else BitVec.ofNat 8 (0x37 + d.toNat) := by
  revert d; decide

/-- Settles O34: the two nibbles of the byte. -/
theorem writeHexSendsTwoDigits : Obligations.WriteHexSendsTwoDigits := by
  intro v s hp _ digit
  have hhigh : (v.extractLsb' 4 4).toNat = v.toNat / 16 := by
    rw [BitVec.extractLsb'_toNat, Nat.shiftRight_eq_div_pow]
    omega
  have hlow : (v.extractLsb' 0 4).toNat = v.toNat % 16 := by
    rw [BitVec.extractLsb'_toNat, Nat.shiftRight_zero]
  have hchars : hexChars v = [digit (v.toNat / 16), digit (v.toNat % 16)] := by
    rw [hexChars, hchar_eq, hchar_eq, hhigh, hlow]
  have hsends := sends_chars (i := .writeHex v) hp (List.cons_ne_nil _ _) (by rw [← hchars]; rfl)
  exact ⟨hsends.1, hsends.2, charTransactions_length _ _⟩

end Sys2Proof.Proofs

/-! SUPPORT. The receiver at the other end of the lines (spec/20_memory.md R54, R61-R66): what a pulse
and a whole transaction make of it, and with that what INIT, GOTO, CREATE_CHAR and a character do to the
display (spec/70_reset_and_hazards.md R262, R271-R273). -/

namespace Sys2Proof.Proofs

open Sys2Proof.Machine Sys2Proof.Laws

/-! ### Events on the bus -/

section BusEvents

variable {c : Config} {x : Lines Level} {r : Receiver}

theorem bus_dir (l : Line) (d : PinDir) : Bus.react c ⟨x, r⟩ (.dir l d) = ⟨x, r⟩ := by
  rw [Bus.react, react_of_not_latch (by simp [isLatch])]
  rfl

theorem bus_waitMs (n : Nat) : Bus.react c ⟨x, r⟩ (.waitMs n) = ⟨x, r.wait (n * 1000)⟩ := by
  rw [Bus.react, react_of_not_latch (by simp [isLatch])]
  rfl

theorem bus_waitUs (n : Nat) : Bus.react c ⟨x, r⟩ (.waitUs n) = ⟨x, r.wait n⟩ := by
  rw [Bus.react, react_of_not_latch (by simp [isLatch])]
  rfl

/-- A level that is no fall of E is not observed. -/
theorem bus_level {l : Line} {v : Level} (h : l ≠ .e ∨ v = true) :
    Bus.react c ⟨x, r⟩ (.lvl l v) = ⟨Lines.set x l v, r⟩ := by
  have hlatch : isLatch x (.lvl l v) = false := by
    obtain h | rfl := h
    · simp [isLatch, h]
    · simp [isLatch]
  rw [Bus.react, react_of_not_latch hlatch]
  rfl

theorem bus_fall (h : x.e = true) : Bus.react c ⟨x, r⟩ (.lvl .e false) =
    ⟨Lines.set x .e false, completeLatch c (r.latch c x.rs (sampleNibble x))⟩ := by
  rw [Bus.react, react_latch h]
  rfl

/-- What one enable pulse makes of the receiver, with RS at `rs` and `n` on the data lines. -/
def pulsed (c : Config) (rs : Level) (n : Nibble) (r : Receiver) : Receiver :=
  completeLatch c ((r.wait (c.tPulseMs * 1000)).latch c rs n)

theorem bus_pulse : (pulse c).foldl (Bus.react c) ⟨x, r⟩ =
    ⟨Lines.set x .e false, pulsed c x.rs (sampleNibble x) r⟩ := by
  rw [pulse, List.foldl_cons, List.foldl_cons, List.foldl_cons, bus_level (.inr rfl), bus_waitMs,
    bus_fall rfl]
  rfl

/-- The data lines carry the low nibble of `v`. -/
theorem bus_hpw (v : Byte) : (hpwEvents v).foldl (Bus.react c) ⟨x, r⟩ =
    ⟨{ x with d4 := v.getLsbD 0, d5 := v.getLsbD 1, d6 := v.getLsbD 2, d7 := v.getLsbD 3 }, r⟩ := by
  simp [hpwEvents, bus_level, Lines.set]

end BusEvents

theorem sampleNibble_bits (rs e : Level) (n : Nibble) :
    sampleNibble ⟨rs, e, n.getLsbD 0, n.getLsbD 1, n.getLsbD 2, n.getLsbD 3⟩ = n := by
  revert n; cases rs <;> cases e <;> decide

theorem wireWord_nibbles (rs : Level) (b : Byte) :
    wireWord rs (b.extractLsb' 4 4) (b.extractLsb' 0 4) = BitVec.ofBool rs ++ b := by
  rw [wireWord, BitVec.extractLsb'_append_extractLsb'_eq_extractLsb' (by rfl)]
  exact congrArg (BitVec.ofBool rs ++ ·) BitVec.extractLsb'_eq_self

/-- One transaction is two pulses, the high nibble's first (R54, R123). -/
theorem bus_transaction (c : Config) (rs : Level) (b : Byte) (x : Lines Level) (r : Receiver) :
    (transactionEvents c rs b).foldl (Bus.react c) ⟨x, r⟩ =
      ⟨⟨rs, false, b.getLsbD 0, b.getLsbD 1, b.getLsbD 2, b.getLsbD 3⟩,
        pulsed c rs (b.extractLsb' 0 4) (pulsed c rs (b.extractLsb' 4 4) r)⟩ := by
  have hhi := sampleNibble_bits rs x.e (b.extractLsb' 4 4)
  have hlo := sampleNibble_bits rs false (b.extractLsb' 0 4)
  simp only [BitVec.getLsbD_extractLsb', Nat.reduceLT, decide_true, Bool.true_and, Nat.zero_add,
    Nat.reduceAdd] at hhi hlo
  rw [← transport_eq, transport, List.foldl_cons, bus_level (.inl (by decide))]
  simp only [List.foldl_append, bus_hpw, bus_pulse, Lines.set, BitVec.getLsbD_ushiftRight,
    Nat.reduceAdd, hhi, hlo]

/-! ### A pulse, by the state of the receiver -/

section Pulsed

variable {c : Config} {r : Receiver}

theorem pulsed_unknown (h : r.rmode = .unknown) (rs : Level) (n : Nibble) : pulsed c rs n r = r := by
  rw [pulsed, wait_unknown h, latch_unknown h]
  rfl

theorem pulsed_lost (rs : Level) (n : Nibble) : pulsed c rs n Receiver.lost = Receiver.lost :=
  pulsed_unknown rfl rs n

theorem wait_four (h : r.rmode = .four) (us : Nat) : r.wait us = { r with gap := r.gap + us } :=
  wait_of_known (by rw [h]; nofun) us

theorem wait_detect8 (h : r.rmode = .detect8) (us : Nat) :
    r.wait us = { r with gap := r.gap + us } :=
  wait_of_known (by rw [h]; nofun) us

theorem pulsed_hi (hmode : r.rmode = .four) (hphase : r.phase = .hi) (rs : Level) (n : Nibble) :
    pulsed c rs n r = if r.gap + c.tPulseMs * 1000 < r.need then Receiver.lost
      else { r with gap := r.gap + c.tPulseMs * 1000, hold := some n, holdRs := some rs
                    phase := .lo } := by
  rw [pulsed, wait_four hmode]
  exact congrArg (completeLatch c)
    (latch_hi (r := { r with gap := r.gap + c.tPulseMs * 1000 }) hmode hphase rs n)

theorem pulsed_lo_word {h : Nibble} {i : Instr} (rs : Level) (n : Nibble) (hmode : r.rmode = .four)
    (hphase : r.phase = .lo) (hh : r.hold = some h) (hrs : r.holdRs = some rs)
    (hd : decodeWire (wireWord rs h n) = .ok i) :
    pulsed c rs n r = Receiver.execute c i { r with phase := .hi, gap := 0 } := by
  rw [pulsed, wait_four hmode]
  exact congrArg (completeLatch c)
    (latch_lo_word (r := { r with gap := r.gap + c.tPulseMs * 1000 }) rs n hmode hphase hh hrs hd)

theorem pulsed_lo_lost {h : Nibble} {hrs : Level} (rs : Level) (n : Nibble) (hmode : r.rmode = .four)
    (hphase : r.phase = .lo) (hh : r.hold = some h) (hhrs : r.holdRs = some hrs)
    (hd : hrs ≠ rs ∨ ∃ e, decodeWire (wireWord rs h n) = .error e) :
    pulsed c rs n r = Receiver.lost := by
  rw [pulsed, wait_four hmode]
  exact congrArg (completeLatch c) (latch_lo_lost (r := { r with gap := r.gap + c.tPulseMs * 1000 })
    rs n hmode hphase hh hhrs hd)

theorem pulsed_detect8_lost (n : Nibble) (hmode : r.rmode = .detect8) :
    pulsed c true n r = Receiver.lost := by
  rw [pulsed, wait_detect8 hmode]
  exact congrArg (completeLatch c) (latch_detect8_lost
    (r := { r with gap := r.gap + c.tPulseMs * 1000 }) true n hmode (.inr (.inl rfl)))

/-- The lone nibble, after enough wait, takes a Detect8 receiver to Four mode (R62). -/
theorem pulsed_detect8_ok (hmode : r.rmode = .detect8)
    (hgap : r.need ≤ r.gap + c.tPulseMs * 1000) : pulsed c false c.initNibble r =
      { r with rmode := .four, phase := .hi, need := c.execOtherUs, gap := 0 } := by
  rw [pulsed, wait_detect8 hmode, latch_detect8_ok (r := { r with gap := r.gap + c.tPulseMs * 1000 }) _ hmode
    hgap rfl]
  exact enterFour_detect8 (r := { r with gap := r.gap + c.tPulseMs * 1000 }) hmode _

end Pulsed

/-! ### A byte delivered -/

/-- The receiver with a whole byte `rs ∥ b` taken: the phase back at Hi, the high nibble still held. -/
def withByte (rs : Level) (b : Byte) (r : Receiver) : Receiver :=
  { r with phase := .hi, gap := 0, hold := some (b.extractLsb' 4 4), holdRs := some rs }

/-- What a transaction makes of a receiver that takes a byte: it executes the wire word, or is lost. -/
def received (c : Config) (rs : Level) (b : Byte) (r : Receiver) : Receiver :=
  match decodeWire (BitVec.ofBool rs ++ b) with
  | .ok i => (withByte rs b r).execute c i
  | .error _ => Receiver.lost

theorem received_ok {c : Config} {rs : Level} {b : Byte} {i : Instr} (r : Receiver)
    (h : decodeWire (BitVec.ofBool rs ++ b) = .ok i) :
    received c rs b r = (withByte rs b r).execute c i := by
  simp only [received, h]

/-- The two pulses of a transaction deliver its byte (R63). -/
theorem pulsed_pulsed {c : Config} {r : Receiver} (h : r.takesByte c) (rs : Level) (b : Byte) :
    pulsed c rs (b.extractLsb' 0 4) (pulsed c rs (b.extractLsb' 4 4) r) = received c rs b r := by
  obtain ⟨hmode, hphase, hneed⟩ := h
  rw [pulsed_hi hmode hphase, if_neg (by omega), received]
  have hword := wireWord_nibbles rs b
  split
  · rename_i i hd
    exact pulsed_lo_word rs _ hmode rfl rfl rfl (by rw [hword, hd])
  · rename_i e hd
    exact pulsed_lo_lost rs _ hmode rfl rfl rfl (.inr ⟨e, by rw [hword, hd]⟩)

theorem bus_takesByte {c : Config} {r : Receiver} (h : r.takesByte c) (rs : Level) (b : Byte)
    (x : Lines Level) : (transactionEvents c rs b).foldl (Bus.react c) ⟨x, r⟩ =
      ⟨⟨rs, false, b.getLsbD 0, b.getLsbD 1, b.getLsbD 2, b.getLsbD 3⟩, received c rs b r⟩ := by
  rw [bus_transaction, pulsed_pulsed h]

/-- A byte that comes while the receiver is busy loses it (R66). -/
theorem bus_busy {c : Config} {r : Receiver} (hmode : r.rmode = .four) (hphase : r.phase = .hi)
    (hbusy : r.gap + c.tPulseMs * 1000 < r.need) (rs : Level) (b : Byte) (x : Lines Level) :
    ((transactionEvents c rs b).foldl (Bus.react c) ⟨x, r⟩).rx = Receiver.lost := by
  rw [bus_transaction, pulsed_hi hmode hphase, if_pos hbusy, pulsed_lost]

/-! ### Requests and their receiver -/

@[simp] theorem preMarked_lvl (op : Byte) (s : State) : (s.preMarked op).lvl = s.lvl := by
  unfold State.preMarked
  split <;> rfl

@[simp] theorem preMarked_rx (op : Byte) (s : State) : (s.preMarked op).rx = s.rx := by
  unfold State.preMarked
  split <;> rfl

/-- A request that sends `es` is served by as many steps, and leaves the receiver that `es` makes. -/
theorem served_of_sends {s : State} {i : Instr} {op : Byte} {es : List Event}
    (h : exec i s = .next ((s.preMarked op).starting es) ∧ Emits es ((s.preMarked op).starting es)) :
    ∃ u t, exec i s = .next u ∧ runSteps es.length u = .next t ∧ t.seq = .idle ∧ t.cfg = s.cfg ∧
      t.rx = (es.foldl (Bus.react s.cfg) ⟨s.lvl, s.rx⟩).rx := by
  obtain ⟨hexec, t, hrun, hseq, _, _, hrx, _, hcfg, _⟩ := h
  have hcfg' : ((s.preMarked op).starting es).cfg = s.cfg := preMarked_cfg op s
  have hlvl : ((s.preMarked op).starting es).lvl = s.lvl := preMarked_lvl op s
  have hr : ((s.preMarked op).starting es).rx = s.rx := preMarked_rx op s
  rw [hcfg', hlvl, hr] at hrx
  exact ⟨_, t, hexec, hrun, hseq, hcfg.trans hcfg', hrx⟩

theorem served_sendByte (rs : Level) (b : Byte) (s : State)
    (hp : PinMap.wellFormed s.cfg.pinmap = true) (hs : s.seq = .idle) :
    ∃ u t, exec (if rs then .sendChar b else .sendCmd b) s = .next u ∧ runSteps 15 u = .next t ∧
      t.seq = .idle ∧ t.cfg = s.cfg ∧
      t.rx = ((transactionEvents s.cfg rs b).foldl (Bus.react s.cfg) ⟨s.lvl, s.rx⟩).rx := by
  cases rs with
  | false =>
    obtain ⟨hexec, hemits, _⟩ := sendCmdEmitsOneTransaction b s hp hs
    exact served_of_sends ⟨hexec, hemits⟩
  | true =>
    obtain ⟨hexec, hemits, _⟩ := sendCharEmitsOneTransaction b s hp hs
    exact served_of_sends ⟨hexec, hemits⟩

/-- Settles O15: the fifteen steps are one transaction on the bus. -/
theorem transactionDeliversItsByte : Obligations.TransactionDeliversItsByte := by
  intro rs b s hp hs htakes
  obtain ⟨u, t, hexec, hrun, _, _, hrx⟩ := served_sendByte rs b s hp hs
  rw [bus_takesByte htakes] at hrx
  exact ⟨u, t, hexec, hrun, hrx⟩

/-- Settles O48: the clear needs more than the one pulse before the next latch. -/
theorem characterAfterHostClearLosesTheReceiver :
    Obligations.CharacterAfterHostClearLosesTheReceiver := by
  intro b s hp hs htakes hclear
  obtain ⟨u, t, hu, ht, hseq, hcfg, hrx⟩ := served_sendByte false 0x01#8 s hp hs
  rw [bus_takesByte htakes, received_ok _ (i := .wireClear) rfl,
    execute_clear (r := withByte _ _ _) htakes.1] at hrx
  obtain ⟨v, w, hv, hw, _, _, hrx'⟩ := served_sendByte true b t (hcfg ▸ hp) hseq
  refine ⟨u, t, v, w, hu, ht, by rw [hrx], hv, hw, ?_⟩
  have hbusy : t.rx.gap + t.cfg.tPulseMs * 1000 < t.rx.need := by
    rw [hrx, hcfg]
    change 0 + s.cfg.tPulseMs * 1000 < s.cfg.execClearUs
    omega
  rw [hrx', bus_busy (by rw [hrx]; exact htakes.1) (by rw [hrx]; rfl) hbusy]

end Sys2Proof.Proofs

/-! SUPPORT. What INIT, GOTO with a character, and CREATE_CHAR make of the display
(spec/70_reset_and_hazards.md R262, R271, R272; spec/42_addressing.md R160-R166; spec/20_memory.md R52,
R60, R65, R68). -/

namespace Sys2Proof.Proofs

open Sys2Proof.Machine Sys2Proof.Laws

/-! ### INIT -/

/-- The 14 events of INIT's steps 1 to 3: directions, the power-up wait and the lone nibble. -/
theorem initTransactions_take_14 (c : Config) : (initTransactions c).take 14 =
    allLines.map (fun l => .dir l .output) ++ [.waitMs c.tPowerMs] ++
      hpwEvents (c.initNibble.setWidth 8) ++ pulse c := by
  simp [initTransactions, allLines, hpwEvents, pulse]

theorem bus_init_take_14 (c : Config) (x : Lines Level) (r : Receiver) :
    ((initTransactions c).take 14).foldl (Bus.react c) ⟨x, r⟩ =
      ⟨⟨x.rs, false, c.initNibble.getLsbD 0, c.initNibble.getLsbD 1, c.initNibble.getLsbD 2,
        c.initNibble.getLsbD 3⟩, pulsed c x.rs c.initNibble (r.wait (c.tPowerMs * 1000))⟩ := by
  have hn := sampleNibble_bits x.rs x.e c.initNibble
  rw [initTransactions_take_14]
  simp only [allLines, List.map_cons, List.map_nil, List.foldl_append, List.foldl_cons,
    List.foldl_nil, bus_dir, bus_waitMs, bus_hpw, bus_pulse, Lines.set, BitVec.getLsbD_setWidth,
    Nat.reduceLT, decide_true, Bool.true_and, hn]

/-- INIT short of its last event: the receiver is what the events so far make of it. -/
theorem served_init_take (s : State) (hp : PinMap.wellFormed s.cfg.pinmap = true) {n : Nat}
    (hn : n < 77) : ∃ u t, exec .init s = .next u ∧ runSteps n u = .next t ∧
      t.rx = (((initTransactions s.cfg).take n).foldl (Bus.react s.cfg) ⟨s.lvl, s.rx⟩).rx :=
  ⟨_, _, exec_init s, runSteps_init s hp hn, reactAll_rx _ _⟩

/-- Settles O19: in Detect8 mode a latch with RS high is no instruction. -/
theorem initWithRsHighLosesTheReceiver : Obligations.InitWithRsHighLosesTheReceiver := by
  intro s hp _ hmode hrs
  obtain ⟨u, t, hu, ht, hrx⟩ := served_init_take s hp (n := 14) (by decide)
  refine ⟨u, t, hu, ht, ?_⟩
  rw [hrx, bus_init_take_14, hrs, wait_detect8 hmode]
  exact pulsed_detect8_lost _ hmode

/-- The eight events after INIT's lone nibble: RS low, and the first pulse of step 4. -/
theorem initTransactions_take_22 (c : Config) : (initTransactions c).take 22 =
    (initTransactions c).take 14 ++
      .lvl .rs false :: (hpwEvents (c.cmdFunctionSet >>> 4) ++ pulse c) := by
  simp [initTransactions, transactionEvents, hpwEvents, pulse]

theorem bus_init_take_22 (c : Config) (x : Lines Level) (r : Receiver) :
    (((initTransactions c).take 22).foldl (Bus.react c) ⟨x, r⟩).rx =
      pulsed c false (c.cmdFunctionSet.extractLsb' 4 4)
        (pulsed c x.rs c.initNibble (r.wait (c.tPowerMs * 1000))) := by
  have hn := sampleNibble_bits false false (c.cmdFunctionSet.extractLsb' 4 4)
  simp only [BitVec.getLsbD_extractLsb', Nat.reduceLT, decide_true, Bool.true_and,
    Nat.reduceAdd] at hn
  rw [initTransactions_take_22, List.foldl_append, bus_init_take_14, List.foldl_cons,
    bus_level (.inl (by decide))]
  simp only [List.foldl_append, bus_hpw, bus_pulse, Lines.set, BitVec.getLsbD_ushiftRight,
    Nat.reduceAdd, hn]

/-- Settles O18: the lone nibble is held as a high one, and step 4's first latch completes the byte
0x22, or finds another RS. -/
theorem initOnAFourBitReceiverLosesIt : Obligations.InitOnAFourBitReceiverLosesIt := by
  intro s hp _ hnibble hfset hmode hphase
  obtain ⟨u, t, hu, ht, hrx⟩ := served_init_take s hp (n := 22) (by decide)
  refine ⟨u, t, hu, ht, ?_⟩
  have hmode' : (s.rx.wait (s.cfg.tPowerMs * 1000)).rmode = .four := by
    rw [wait_four hmode]; exact hmode
  have hphase' : (s.rx.wait (s.cfg.tPowerMs * 1000)).phase = .hi := by
    rw [wait_four hmode]; exact hphase
  rw [hrx, bus_init_take_22, hnibble, hfset, pulsed_hi hmode' hphase']
  split
  · exact pulsed_lost _ _
  · refine pulsed_lo_lost (hrs := s.lvl.rs) _ _ hmode' rfl rfl rfl ?_
    cases s.lvl.rs with
    | true => exact .inl nofun
    | false => exact .inr ⟨_, rfl⟩

/-- INIT's steps 4 to 7: four command bytes, with a wait between each two. -/
theorem initTransactions_split (c : Config) : initTransactions c = (initTransactions c).take 14 ++
    (transactionEvents c false c.cmdFunctionSet ++ .waitUs c.tFsetUs ::
      (transactionEvents c false c.cmdDisplayCtrl ++ .waitUs c.tDctlUs ::
        (transactionEvents c false c.cmdClear ++ .waitMs c.tClearMs ::
          transactionEvents c false c.cmdEntryMode))) := by
  simp [initTransactions]

/-- R262: the lone nibble takes the receiver to Four mode, and each of the four bytes finds it ready. -/
theorem bus_init {c : Config} {r : Receiver} (hfset : c.cmdFunctionSet = 0x28#8)
    (hdctl : c.cmdDisplayCtrl = 0x0F#8) (hclr : c.cmdClear = 0x01#8)
    (hentry : c.cmdEntryMode = 0x06#8) (hmode : r.rmode = .detect8)
    (hneed : r.need ≤ r.gap + 1000 * (c.tPowerMs + c.tPulseMs))
    (hother : c.execOtherUs ≤ 1000 * c.tPulseMs)
    (hclear : c.execClearUs ≤ 1000 * (c.tClearMs + c.tPulseMs)) (x : Lines Level)
    (hrs : x.rs = false) :
    ((initTransactions c).foldl (Bus.react c) ⟨x, r⟩).rx = withByte false 0x06#8
      { r with rmode := .four, ac := some 0#7, target := .ddram
               ddram := Memory.fill ddramSize 0x20#8, fset := some 0x28#8, dctl := some 0x0F#8
               entry := some 0x06#8, shifted := false, need := c.execOtherUs } := by
  rw [initTransactions_split, List.foldl_append, bus_init_take_14, hrs, wait_detect8 hmode,
    pulsed_detect8_ok (r := { r with gap := r.gap + c.tPowerMs * 1000 }) hmode (by
      change r.need ≤ r.gap + c.tPowerMs * 1000 + c.tPulseMs * 1000
      omega), hfset, hdctl, hclr, hentry]
  rw [List.foldl_append, bus_takesByte ⟨rfl, rfl, by change c.execOtherUs ≤ 0 + _; omega⟩,
    received_ok _ (i := .wireFunctionSet) rfl, execute_functionSet rfl, List.foldl_cons, bus_waitUs,
    wait_four rfl]
  rw [List.foldl_append, bus_takesByte ⟨rfl, rfl, by change c.execOtherUs ≤ 0 + _ + _; omega⟩,
    received_ok _ (i := .wireDisplayCtrl) rfl, execute_displayCtrl rfl, List.foldl_cons, bus_waitUs,
    wait_four rfl]
  rw [List.foldl_append, bus_takesByte ⟨rfl, rfl, by change c.execOtherUs ≤ 0 + _ + _; omega⟩,
    received_ok _ (i := .wireClear) rfl, execute_clear rfl, List.foldl_cons, bus_waitMs,
    wait_four rfl]
  rw [bus_takesByte ⟨rfl, rfl, by change c.execClearUs ≤ 0 + _ + _; omega⟩,
    received_ok _ (i := .wireEntryMode) rfl, execute_entryMode rfl]
  rfl

/-- Settles O17: the receiver that INIT's events make. -/
theorem initBringsTheReceiverUp : Obligations.InitBringsTheReceiverUp := by
  intro s hp _ hfset hdctl hclr hentry hmode hrs hneed hother hclear
  refine ⟨_, _, exec_init s, runSteps_init_all s hp, by simp [finish_ready], ?_⟩
  rw [finish_rx, reactAll_rx, bus_init hfset hdctl hclr hentry hmode hneed hother hclear s.lvl hrs]
  exact ⟨rfl, rfl, rfl, rfl, fun a ha => (get?_fill ddramSize a _).trans (if_pos ha), rfl, rfl, rfl,
    rfl, rfl, rfl, rfl⟩

/-! ### GOTO and a character -/

/-- The command byte 0x80 and an address sets that address. -/
theorem decodeWire_ddramAddress {a : BitVec 7} {m : Nat} (h : a.toNat = m) :
    decodeWire (BitVec.ofBool false ++ BitVec.ofNat 8 (0x80 + m)) = .ok (.wireSetDdramAddr a) := by
  subst h
  revert a
  decide +kernel

/-- A byte with RS high is a data write. -/
theorem decodeWire_character (b : Byte) :
    decodeWire (BitVec.ofBool true ++ b) = .ok (.wireData b) := decodeWire_data b

theorem cursorAt_of_ac {c : Config} {line base cell : Byte} {r : Receiver} {a : BitVec 7}
    (hbase : lineBase c line = some base) (hmode : r.rmode = .four) (ht : r.target = .ddram)
    (hac : r.ac = some a) (ha : a.toNat = base.toNat + cell.toNat) :
    r.cursorAt c line cell.toNat = true := by
  simp [Receiver.cursorAt, Receiver.cursor, Receiver.known, hmode, ht, hac, cellAddress, hbase, ha]

theorem shownCode_of_get? {c : Config} {line base cell : Byte} {r : Receiver}
    (hbase : lineBase c line = some base) (hcols : cell.toNat < c.displayCols)
    (hmode : r.rmode = .four) (hdctl : r.dctl = some 0x0F#8) (hshift : r.shifted = false) :
    r.shownCode c line cell.toNat = Memory.get? r.ddram (base.toNat + cell.toNat) := by
  simp [Receiver.shownCode, Receiver.visible, hmode, hdctl, hshift, hcols, cellAddress, hbase,
    Receiver.ddramAt, Receiver.known]

/-- Settles O27: the address command sets the counter, and the byte is stored there. -/
theorem characterAppearsWhereGotoPointed : Obligations.CharacterAppearsWhereGotoPointed := by
  intro line base cell b s hp hs h1 h2 hbase hcols hcell htakes hvis hentry hother
  have hmode := htakes.1
  obtain ⟨_, hdctl, hshift⟩ := of_decide_eq_true hvis
  have hline := lineBase_some h1 h2 hbase
  obtain ⟨a, haddr⟩ : ∃ a : BitVec 7, a.toNat = base.toNat + cell.toNat :=
    ⟨BitVec.ofNat 7 (base.toNat + cell.toNat), by rw [BitVec.toNat_ofNat]; omega⟩
  obtain ⟨u, t, hu, ht, hseq, hcfg, hrx⟩ :=
    served_of_sends ((gotoSendsItsAddressCommand line cell s hp hs).1 base h1 h2 hbase)
  rw [bus_takesByte htakes, Nat.add_assoc, received_ok _ (decodeWire_ddramAddress haddr),
    execute_setDdramAddr (r := withByte _ _ _) hmode] at hrx
  obtain ⟨v, w, hv, hw, _, _, hrx'⟩ := served_sendByte true b t (hcfg ▸ hp) hseq
  refine ⟨u, t, v, w, hu, ht, ?_, hv, hw, ?_⟩
  · rw [hrx]
    exact cursorAt_of_ac hline hmode rfl rfl haddr
  · have hcell' : hasDdramCell a = true := by
      simpa [hasDdramCell, haddr] using hcell
    have htakes' : t.rx.takesByte s.cfg := by
      rw [hrx]
      exact ⟨hmode, rfl, by change s.cfg.execOtherUs ≤ 0 + _; omega⟩
    have hentry' : t.rx.entry = some 0x06#8 := by rw [hrx]; exact hentry
    have hdctl' : t.rx.dctl = some 0x0F#8 := by rw [hrx]; exact hdctl
    have hshift' : t.rx.shifted = false := by rw [hrx]; exact hshift
    have hac : t.rx.ac = some a := by rw [hrx]
    have htarget : t.rx.target = .ddram := by rw [hrx]
    rw [hcfg, bus_takesByte htakes', received_ok _ (decodeWire_character b), execute_data_ddram
      (r := withByte true b t.rx) htakes'.1 s.cfg b hentry' hac htarget hcell'] at hrx'
    rw [shownCode_of_get? hline hcols (by rw [hrx']; exact htakes'.1) (by rw [hrx']; exact hdctl')
      (by rw [hrx']; exact hshift'), hrx', ← haddr]
    exact get?_put_same _ _ _

end Sys2Proof.Proofs

/-! SUPPORT. CREATE_CHAR seen by the receiver (spec/42_addressing.md R164-R166, spec/20_memory.md R52,
R65): the CGRAM address, one stored byte after the other, and the cursor back home. -/

namespace Sys2Proof.Proofs

open Sys2Proof.Machine Sys2Proof.Laws

/-- What CREATE_CHAR leaves as it is: all but CGRAM, the counter and the interface. -/
structure ViewKept (r q : Receiver) : Prop where
  ddram : q.ddram = r.ddram
  fset : q.fset = r.fset
  dctl : q.dctl = r.dctl
  entry : q.entry = r.entry
  shifted : q.shifted = r.shifted

theorem ViewKept.trans {r q p : Receiver} (h : ViewKept r q) (h' : ViewKept q p) : ViewKept r p :=
  ⟨h'.ddram.trans h.ddram, h'.fset.trans h.fset, h'.dctl.trans h.dctl, h'.entry.trans h.entry,
    h'.shifted.trans h.shifted⟩

/-- The receiver takes a byte that it stores at CGRAM address `n`. -/
structure CgramReady (c : Config) (n : Nat) (r : Receiver) : Prop where
  takes : r.takesByte c
  entry : r.entry = some 0x06#8
  target : r.target = .cgram
  ac : n < 64 → r.ac = some (BitVec.ofNat 7 n)

/-- A character transaction and CREATE_CHAR's wait after it. -/
def glyphRow (c : Config) (b : Byte) : List Event :=
  transactionEvents c true b ++ [.waitUs c.tCgbyteUs]

section Glyph

variable {c : Config} (hdata : c.execDataUs ≤ c.tCgbyteUs + 1000 * c.tPulseMs)
include hdata

/-- One row is stored at the counter, which advances. -/
theorem bus_glyphRow {n : Nat} {r : Receiver} (h : CgramReady c n r) (hn : n < 64) (b : Byte)
    (x : Lines Level) : ∃ x' q, (glyphRow c b).foldl (Bus.react c) ⟨x, r⟩ = ⟨x', q⟩ ∧
      CgramReady c (n + 1) q ∧ ViewKept r q ∧ q.cgram = Memory.put r.cgram n b := by
  have hmode := h.takes.1
  have hlow : ((BitVec.ofNat 7 n).extractLsb' 0 6).toNat = n := by
    rw [cgramAddress_toNat, BitVec.toNat_ofNat]
    omega
  rw [glyphRow, List.foldl_append, bus_takesByte h.takes, received_ok _ (decodeWire_character b),
    execute_data_cgram (r := withByte true b r) hmode c b h.entry (h.ac hn) h.target, hlow,
    List.foldl_cons, bus_waitUs, wait_of_known (hmode ▸ nofun), List.foldl_nil]
  refine ⟨_, _, rfl, ⟨⟨hmode, rfl, ?_⟩, h.entry, h.target, fun hn' => ?_⟩,
    ⟨rfl, rfl, rfl, rfl, rfl⟩, rfl⟩
  · change c.execDataUs ≤ 0 + _ + _
    omega
  · have hmax : (BitVec.ofNat 7 n).extractLsb' 0 6 ≠ 0x3F#6 := by
      rw [Ne, ← BitVec.toNat_inj, hlow, BitVec.toNat_ofNat]
      omega
    exact (if_neg hmax).trans (congrArg some (BitVec.ofNat_add n 1).symm)

/-- Rows are stored one after the other, and nowhere else. -/
theorem bus_glyphRows {n : Nat} {r : Receiver} (h : CgramReady c n r) (bs : List Byte)
    (hn : n + bs.length ≤ 64) (x : Lines Level) :
    ∃ x' q, (bs.flatMap (glyphRow c)).foldl (Bus.react c) ⟨x, r⟩ = ⟨x', q⟩ ∧
      q.takesByte c ∧ ViewKept r q ∧
      (∀ k, k < bs.length → Memory.get? q.cgram (n + k) = bs[k]?) ∧
      (∀ a, a < n ∨ n + bs.length ≤ a → Memory.get? q.cgram a = Memory.get? r.cgram a) := by
  induction bs generalizing n r x with
  | nil => exact ⟨x, r, rfl, h.takes, ⟨rfl, rfl, rfl, rfl, rfl⟩, nofun, fun _ _ => rfl⟩
  | cons b bs ih =>
    rw [List.length_cons] at hn
    obtain ⟨x₁, q₁, hrow, hready, hview₁, hput⟩ := bus_glyphRow hdata h (by omega) b x
    obtain ⟨x₂, q₂, hrows, htakes, hview₂, hin, hout⟩ := ih hready (by omega) x₁
    refine ⟨x₂, q₂, ?_, htakes, hview₁.trans hview₂, fun k hk => ?_, fun a ha => ?_⟩
    · rw [List.flatMap_cons, List.foldl_append, hrow, hrows]
    · cases k with
      | zero =>
        rw [hout (n + 0) (.inl (by omega)), hput]
        exact get?_put_same _ _ _
      | succ k =>
        rw [List.getElem?_cons_succ, ← hin k (by simpa using hk), Nat.add_assoc, Nat.add_comm 1]
    · rw [List.length_cons] at ha
      rw [hout a (by omega), hput, get?_put_other _ _ (by omega)]

end Glyph

/-- The address command of a slot sets the counter to the slot's first CGRAM byte. -/
theorem decodeWire_slotAddress {slot : Nat} (h : slot ≤ 7) :
    decodeWire (BitVec.ofBool false ++ BitVec.ofNat 8 (0x40 + 8 * slot)) =
        .ok (.wireSetCgramAddr (BitVec.ofNat 6 (8 * slot))) ∧
      (BitVec.ofNat 6 (8 * slot)).setWidth 7 = BitVec.ofNat 7 (8 * slot) := by
  decide +revert

theorem bus_slotAddress {c : Config} {r : Receiver} {slot : Nat} (hslot : slot ≤ 7)
    (htakes : r.takesByte c) (hentry : r.entry = some 0x06#8)
    (hother : c.execOtherUs ≤ c.tCgsetUs + 1000 * c.tPulseMs) (x : Lines Level) :
    ∃ x' q, (transactionEvents c false (BitVec.ofNat 8 (0x40 + 8 * slot)) ++
        [Event.waitUs c.tCgsetUs]).foldl (Bus.react c) ⟨x, r⟩ = ⟨x', q⟩ ∧
      CgramReady c (8 * slot) q ∧ ViewKept r q ∧ q.cgram = r.cgram := by
  have hmode := htakes.1
  obtain ⟨haddr, hwidth⟩ := decodeWire_slotAddress hslot
  rw [List.foldl_append, bus_takesByte htakes, received_ok _ haddr,
    execute_setCgramAddr (r := withByte _ _ _) hmode, hwidth, List.foldl_cons, bus_waitUs,
    wait_of_known (hmode ▸ nofun), List.foldl_nil]
  refine ⟨_, _, rfl, ⟨⟨hmode, rfl, ?_⟩, hentry, rfl, fun _ => rfl⟩, ⟨rfl, rfl, rfl, rfl, rfl⟩, rfl⟩
  change c.execOtherUs ≤ 0 + _ + _
  omega

theorem bus_home {c : Config} {r : Receiver} (htakes : r.takesByte c) (us : Nat) (x : Lines Level) :
    ∃ x' q, (transactionEvents c false 0x80#8 ++ [Event.waitUs us]).foldl (Bus.react c) ⟨x, r⟩ =
        ⟨x', q⟩ ∧ q.rmode = .four ∧ q.phase = .hi ∧ q.ac = some 0#7 ∧ q.target = .ddram ∧
      ViewKept r q ∧ q.cgram = r.cgram := by
  have hmode := htakes.1
  rw [List.foldl_append, bus_takesByte htakes,
    received_ok _ (decodeWire_ddramAddress (a := 0#7) (m := 0) rfl),
    execute_setDdramAddr (r := withByte _ _ _) hmode, List.foldl_cons, bus_waitUs,
    wait_of_known (hmode ▸ nofun), List.foldl_nil]
  exact ⟨_, _, rfl, hmode, rfl, rfl, rfl, ⟨rfl, rfl, rfl, rfl, rfl⟩, rfl⟩

/-- Settles O25: the address command, the eight rows, and the command that homes the cursor. -/
theorem createCharStoresTheGlyph : Obligations.CreateCharStoresTheGlyph := by
  intro slot m s hp hs hslot hslots htakes hentry hother hdata
  obtain ⟨hexec, hemits, hlen, _⟩ := (createCharSendsTheGlyph slot m s hp hs).1 hslots
  obtain ⟨u, t, hu, ht, _, _, hrx⟩ := served_of_sends ⟨hexec, hemits⟩
  rw [hlen] at ht
  obtain ⟨x₁, q₁, h₁, hready, hview₁, hcgram₁⟩ :=
    bus_slotAddress hslot htakes hentry hother s.lvl
  obtain ⟨x₂, q₂, h₂, htakes₂, hview₂, hin, hout⟩ :=
    bus_glyphRows hdata hready m.toList (by change 8 * slot.toNat + 8 ≤ 64; omega) x₁
  obtain ⟨x₃, q₃, h₃, hmode, hphase, hac, htarget, hview₃, hcgram₃⟩ :=
    bus_home htakes₂ s.cfg.tCgrestoreUs x₂
  have h₁₂ := (List.foldl_append ..).trans ((congrArg (List.foldl _ · _) h₁).trans h₂)
  have hq : t.rx = q₃ := by
    rw [hrx, List.append_assoc _ (transactionEvents s.cfg false 0x80#8), List.foldl_append]
    exact congrArg Bus.rx ((congrArg (List.foldl _ · _) h₁₂).trans h₃)
  obtain ⟨hddram, hfset, hdctl, hentry₃, hshifted⟩ := (hview₁.trans hview₂).trans hview₃
  refine ⟨u, t, hu, ht, ?_⟩
  rw [hq, hcgram₃, ← hcgram₁]
  exact ⟨hmode, hphase, hac, htarget, hddram, hin, hout, hfset, hdctl, hentry₃, hshifted⟩

end Sys2Proof.Proofs

/-! SUPPORT. WRITE_FLOAT (spec/43_encoders.md R210-R215). Magnitudes count units of 2^-149. The integer
part and the subtraction round nothing, since they stay within 24 significant bits; the product rounds
once, and so little that the fraction stays below 1000. -/

namespace Sys2Proof.Proofs

open Sys2Proof.Machine Sys2Proof.Laws

/-! ### Magnitudes of 24 significant bits -/

/-- A magnitude that binary32 holds exactly, but for its upper limit. -/
def Representable (n : Nat) : Prop := ∃ m e, m < 2 ^ 24 ∧ n = m * 2 ^ e

theorem representable_of_ofBits {x : Word32} {neg : Bool} {mag : Nat}
    (h : F32.ofBits x = .fin neg mag) : Representable mag := by
  have hf : (x.extractLsb' 0 23).toNat < 2 ^ 23 := (x.extractLsb' 0 23).isLt
  simp only [F32.ofBits] at h
  split_ifs at h
  · cases h
    exact ⟨_, 0, hf.trans (by decide), (Nat.mul_one _).symm⟩
  · cases h
    exact ⟨_, _, by omega, rfl⟩

/-- Dropping low bits keeps a magnitude representable. -/
theorem Representable.div_mul {n : Nat} (h : Representable n) (k : Nat) :
    Representable (n / 2 ^ k * 2 ^ k) := by
  obtain ⟨m, e, hm, rfl⟩ := h
  by_cases hk : k ≤ e
  · have hdvd : 2 ^ k ∣ m * 2 ^ e := Dvd.dvd.mul_left (pow_dvd_pow 2 hk) m
    rw [Nat.div_mul_cancel hdvd]
    exact ⟨m, e, hm, rfl⟩
  · have hpow : 2 ^ k = 2 ^ (k - e) * 2 ^ e := by rw [← pow_add]; congr 1; omega
    refine ⟨m / 2 ^ (k - e), k, (Nat.div_le_self _ _).trans_lt hm, ?_⟩
    conv_lhs => rw [hpow, Nat.mul_div_mul_right _ _ (by positivity), ← hpow]

/-- Dropping high bits keeps a magnitude representable. -/
theorem Representable.mod {n : Nat} (h : Representable n) (k : Nat) : Representable (n % 2 ^ k) := by
  obtain ⟨m, e, hm, rfl⟩ := h
  by_cases hk : k ≤ e
  · have hdvd : 2 ^ k ∣ m * 2 ^ e := Dvd.dvd.mul_left (pow_dvd_pow 2 hk) m
    exact ⟨0, 0, by decide, by rw [Nat.mod_eq_zero_of_dvd hdvd, Nat.zero_mul]⟩
  · have hpow : 2 ^ k = 2 ^ (k - e) * 2 ^ e := by rw [← pow_add]; congr 1; omega
    refine ⟨m % 2 ^ (k - e), e, (Nat.mod_le _ _).trans_lt hm, ?_⟩
    rw [hpow, Nat.mul_mod_mul_right]

/-! ### Rounding -/

/-- The spacing of binary32 values at the magnitude `v` is `2 ^ spacing v`. -/
def spacing (v : Nat) : Nat := Nat.log2 v + 1 - 24

/-- Rounding a whole number of units: whole steps, and one more where the rest is the larger part, or
half a step above an odd count. -/
theorem roundMag_one (v : Nat) : roundMag v 1 = (v / 2 ^ spacing v +
    if 2 ^ spacing v < 2 * (v % 2 ^ spacing v) ∨
      2 * (v % 2 ^ spacing v) = 2 ^ spacing v ∧ v / 2 ^ spacing v % 2 = 1 then 1 else 0) *
    2 ^ spacing v := by
  simp only [roundMag, spacing, Nat.div_one, Nat.one_mul]
  congr

/-- Units and the denominator scale together. -/
theorem roundMag_mul (v : Nat) {den : Nat} (h : 0 < den) : roundMag (v * den) den = roundMag v 1 := by
  have hstep (q r : Nat) : (den * q < 2 * (r * den) ∨ 2 * (r * den) = den * q ∧ v / q % 2 = 1) ↔
      (q < 2 * r ∨ 2 * r = q ∧ v / q % 2 = 1) := by
    rw [← Nat.mul_assoc, Nat.mul_comm den q, Nat.mul_lt_mul_right h, Nat.mul_left_inj h.ne']
  rw [roundMag_one]
  simp only [roundMag, Nat.mul_div_cancel v h, ← spacing.eq_1]
  rw [Nat.mul_comm den (2 ^ spacing v), Nat.mul_div_mul_right _ _ h, Nat.mul_mod_mul_right,
    Nat.mul_comm (2 ^ spacing v) den]
  simp only [hstep]

theorem lt_two_pow_spacing (v : Nat) : v < 2 ^ (spacing v + 24) := by
  refine Nat.lt_log2_self.trans_le (Nat.pow_le_pow_right (by decide) ?_)
  rw [spacing]
  omega

theorem two_pow_spacing_le (v : Nat) : spacing v = 0 ∨ 2 ^ (spacing v + 23) ≤ v := by
  by_cases h : spacing v = 0
  · exact .inl h
  · have hv : v ≠ 0 := by rintro rfl; exact h (by rw [spacing, Nat.log2_zero])
    have hlog : spacing v + 23 = Nat.log2 v := by rw [spacing] at h ⊢; omega
    exact .inr (hlog ▸ Nat.log2_self_le hv)

/-- A representable magnitude is a whole number of steps of its own spacing, so it rounds to itself. -/
theorem roundMag_of_representable {n : Nat} (h : Representable n) : roundMag n 1 = n := by
  obtain ⟨m, e, hm, hn⟩ := h
  have hdvd : 2 ^ spacing n ∣ n := by
    obtain h0 | hle := two_pow_spacing_le n
    · rw [h0]; exact one_dvd n
    · have hlt : 2 ^ (spacing n + 23) < 2 ^ (24 + e) := by
        rw [pow_add _ 24]
        exact hle.trans_lt (hn ▸ Nat.mul_lt_mul_of_pos_right hm (by positivity))
      have hexp := (Nat.pow_lt_pow_iff_right (by decide)).1 hlt
      rw [hn]
      rw [hn] at hexp
      exact Dvd.dvd.mul_left (pow_dvd_pow 2 (by omega)) m
  have hpos : 0 < 2 ^ spacing n := by positivity
  rw [roundMag_one, Nat.mod_eq_zero_of_dvd hdvd, if_neg (by omega), Nat.add_zero,
    Nat.div_mul_cancel hdvd]

/-- What rounding to nearest with ties to even means: the result is `m` steps of `2 ^ k`, no other whole
number of steps is nearer, and where another is as near `m` is even. -/
structure NearestEven (v k m : Nat) : Prop where
  above : 2 * v ≤ (2 * m + 1) * 2 ^ k
  below : 2 * m * 2 ^ k ≤ 2 * v + 2 ^ k
  even : 2 * v = (2 * m + 1) * 2 ^ k ∨ 2 * m * 2 ^ k = 2 * v + 2 ^ k → m % 2 = 0

theorem roundMag_nearestEven (v : Nat) :
    ∃ m, roundMag v 1 = m * 2 ^ spacing v ∧ NearestEven v (spacing v) m := by
  refine ⟨_, roundMag_one v, ?_⟩
  have hpos : 0 < 2 ^ spacing v := by positivity
  have hlt := Nat.mod_lt v hpos
  have hv := Nat.div_add_mod v (2 ^ spacing v)
  generalize hq : v / 2 ^ spacing v = q at hv ⊢
  generalize v % 2 ^ spacing v = r at hv hlt ⊢
  have hstep : 2 ^ spacing v * q = q * 2 ^ spacing v := Nat.mul_comm _ _
  have h1 : (2 * (q + 1) + 1) * 2 ^ spacing v = 2 * (q * 2 ^ spacing v) + 3 * 2 ^ spacing v := by ring
  have h2 : 2 * (q + 1) * 2 ^ spacing v = 2 * (q * 2 ^ spacing v) + 2 * 2 ^ spacing v := by ring
  have h3 : (2 * (q + 0) + 1) * 2 ^ spacing v = 2 * (q * 2 ^ spacing v) + 2 ^ spacing v := by ring
  have h4 : 2 * (q + 0) * 2 ^ spacing v = 2 * (q * 2 ^ spacing v) := by ring
  split
  case isTrue h => constructor <;> omega
  case isFalse h => constructor <;> omega

/-! ### The steps of the fraction -/

/-- Truncating a signed magnitude to whole numbers. -/
theorem signed_natAbs (neg : Bool) (n : Nat) : (signed neg n).natAbs = n := by
  cases neg <;> simp [signed]

/-- The sign read off the integer part is the sign of its multiples. -/
theorem signed_sign (neg : Bool) (i p : Nat) :
    signed (decide (signed neg i < 0)) (i * p) = signed neg (i * p) := by
  obtain rfl | hi := Nat.eq_zero_or_pos i
  · cases neg <;> simp [signed]
  · cases neg <;> simp [signed, hi]

theorem round_exact {n : Nat} (neg : Bool) (h : Representable n) (hlt : n < f32Limit) :
    F32.round neg n 1 = .fin neg n := by
  rw [F32.round, roundMag_of_representable h]
  exact if_neg (Nat.not_le.mpr hlt)

section Fraction

variable {neg : Bool} {mag : Nat} (hrep : Representable mag)
  (hsize : mag / 2 ^ 149 ≤ 2147483648)
include hrep hsize

/-- The integer part is exact in binary32. -/
theorem ofInt_integerPart : F32.ofInt (signed neg (mag / 2 ^ 149)) =
    .fin (decide (signed neg (mag / 2 ^ 149) < 0)) (mag / 2 ^ 149 * 2 ^ 149) := by
  rw [F32.ofInt, signed_natAbs]
  refine round_exact _ (hrep.div_mul 149) ?_
  have hlimit : f32Limit = 2 ^ 128 * 2 ^ 149 := rfl
  rw [hlimit]
  exact Nat.mul_lt_mul_of_pos_right (hsize.trans_lt (by decide)) (by decide)

/-- The subtraction leaves the rest below the point, exactly. -/
theorem sub_integerPart : ∃ sg, F32.sub (.fin neg mag) (F32.ofInt (signed neg (mag / 2 ^ 149))) =
    .fin sg (mag % 2 ^ 149) := by
  have hlt : mag % 2 ^ 149 < f32Limit :=
    (Nat.mod_lt mag (by positivity)).trans_le (Nat.le_mul_of_pos_left (2 ^ 149) (by decide))
  have hdiff : signed neg mag -
      signed (decide (signed neg (mag / 2 ^ 149) < 0)) (mag / 2 ^ 149 * 2 ^ 149) =
      signed neg (mag % 2 ^ 149) := by
    have hdm := Nat.div_add_mod' mag (2 ^ 149)
    rw [signed_sign]
    cases neg with
    | false => simp only [signed, Bool.false_eq_true, if_false]; omega
    | true => simp only [signed, if_true]; omega
  rw [ofInt_integerPart hrep hsize]
  simp only [F32.sub, hdiff, signed_natAbs]
  split
  case isTrue h =>
    have h0 : mag % 2 ^ 149 = 0 := by
      rw [← signed_natAbs neg (mag % 2 ^ 149), h]; rfl
    rw [h0]
    exact ⟨_, rfl⟩
  case isFalse => exact ⟨_, round_exact _ (hrep.mod 149) hlt⟩

end Fraction

/-! ### The one rounding -/

/-- A representable magnitude below one stays a step of 2^-24 away from it. -/
theorem Representable.le_of_lt {n : Nat} (h : Representable n) (hlt : n < 2 ^ 149) :
    n ≤ 2 ^ 149 - 2 ^ 125 := by
  by_cases hsmall : n < 2 ^ 148
  · exact hsmall.le.trans (by decide)
  · obtain ⟨m, e, hm, rfl⟩ := h
    have hexp : 2 ^ 148 < 2 ^ (24 + e) := by
      rw [pow_add]
      exact (Nat.le_of_not_lt hsmall).trans_lt (Nat.mul_lt_mul_of_pos_right hm (by positivity))
    have he : 125 ≤ e := by
      have := (Nat.pow_lt_pow_iff_right (by decide)).1 hexp
      omega
    obtain ⟨t, ht⟩ : 2 ^ 125 ∣ m * 2 ^ e := Dvd.dvd.mul_left (pow_dvd_pow 2 he) m
    omega

section Product

variable {rest k m : Nat} (hlt : rest < 2 ^ 149) (hk : k = 0 ∨ 2 ^ (k + 23) ≤ rest * 1000)
  (hround : NearestEven (rest * 1000) k m)

include hlt hk in
theorem product_step_le : k ≤ 135 := by
  obtain rfl | hle := hk
  · exact Nat.zero_le _
  · have hpow : 2 ^ (k + 23) < 2 ^ 159 := hle.trans_lt (by omega)
    have := (Nat.pow_lt_pow_iff_right (by decide)).1 hpow
    omega

include hlt hk hround

/-- R212: the rounding never carries the fraction to 1000. -/
theorem rounded_product_lt (hrep : Representable rest) : m * 2 ^ k < 1000 * 2 ^ 149 := by
  have hstep : 2 ^ k ≤ 2 ^ 135 := Nat.pow_le_pow_right (by decide) (product_step_le hlt hk)
  have hrest := hrep.le_of_lt hlt
  have hbelow := hround.below
  rw [Nat.mul_assoc] at hbelow
  omega

/-- R214: the truncated fraction is the exact thousandths truncated, or one above. -/
theorem rounded_product_div : rest * 1000 / 2 ^ 149 ≤ m * 2 ^ k / 2 ^ 149 ∧
    m * 2 ^ k / 2 ^ 149 ≤ rest * 1000 / 2 ^ 149 + 1 := by
  have hk' := product_step_le hlt hk
  constructor
  · have hsplit : 2 ^ 149 = 2 ^ (149 - k) * 2 ^ k := by rw [← pow_add]; congr 1; omega
    have hle : 2 * (rest * 1000 / 2 ^ 149 * 2 ^ (149 - k)) * 2 ^ k ≤ (2 * m + 1) * 2 ^ k := by
      refine le_trans ?_ hround.above
      rw [Nat.mul_assoc, Nat.mul_assoc _ (2 ^ (149 - k)), ← hsplit]
      exact Nat.mul_le_mul_left 2 (Nat.div_mul_le_self _ _)
    have hm := Nat.le_of_mul_le_mul_right hle (by positivity)
    rw [Nat.le_div_iff_mul_le (by positivity), hsplit, ← Nat.mul_assoc, ← hsplit]
    exact Nat.mul_le_mul_right _ (by omega)
  · have hstep : 2 ^ k ≤ 2 ^ 135 := Nat.pow_le_pow_right (by decide) hk'
    have hbelow := hround.below
    rw [Nat.mul_assoc] at hbelow
    omega

end Product

/-- The fraction of a finite input is its rest times 1000, rounded once and truncated. -/
theorem fraction_eq {neg : Bool} {mag : Nat} (hrep : Representable mag)
    (hsize : mag / 2 ^ 149 ≤ 2147483648) :
    ∃ m, NearestEven (mag % 2 ^ 149 * 1000) (spacing (mag % 2 ^ 149 * 1000)) m ∧
      fraction (.fin neg mag) (signed neg (mag / 2 ^ 149)) =
        m * 2 ^ spacing (mag % 2 ^ 149 * 1000) / 2 ^ 149 := by
  obtain ⟨sg, hsub⟩ := sub_integerPart (neg := neg) hrep hsize
  have hlt : mag % 2 ^ 149 < 2 ^ 149 := Nat.mod_lt mag (by decide)
  have hrest := hrep.mod 149
  generalize mag % 2 ^ 149 = rest at hsub hlt hrest ⊢
  obtain ⟨m, hm, hround⟩ := roundMag_nearestEven (rest * 1000)
  refine ⟨m, hround, ?_⟩
  have hprod : F32.mul (.fin sg rest) f32Thousand = .fin (sg != false) (roundMag (rest * 1000) 1) := by
    have hbound := rounded_product_lt hlt (two_pow_spacing_le _) hround hrest
    rw [f32Thousand, F32.mul, ← Nat.mul_assoc, F32.round, roundMag_mul _ (by decide)]
    refine if_neg (Nat.not_le.mpr ?_)
    rw [hm]
    exact hbound.trans (by decide)
  rw [fraction, hsub, hprod, hm]
  exact signed_natAbs _ _

/-! ### WRITE_FLOAT -/

theorem floatParts_fin {x : Word32} {neg : Bool} {mag : Nat} (hx : F32.ofBits x = .fin neg mag)
    (hhigh : signed neg (mag / 2 ^ 149) ≤ 2147483647)
    (hlow : -2147483648 ≤ signed neg (mag / 2 ^ 149)) :
    floatParts x = some (signed neg (mag / 2 ^ 149),
      fraction (.fin neg mag) (signed neg (mag / 2 ^ 149))) := by
  have hin : inS32 (signed neg (mag / 2 ^ 149)) = true := by
    simp only [inS32, decide_eq_true hlow, decide_eq_true hhigh, Bool.and_self]
  have htrunc : (F32.fin neg mag).trunc = some (signed neg (mag / 2 ^ 149)) := rfl
  simp only [floatParts, hx, htrunc, hin, if_true]

/-- Settles O36: the three exact steps, and the one rounding. -/
theorem floatFractionIsExactButForOneRounding : Obligations.FloatFractionIsExactButForOneRounding := by
  intro x neg mag hx i rest hhigh hlow
  have hrep := representable_of_ofBits hx
  have hsize : mag / 2 ^ 149 ≤ 2147483648 := by
    have := signed_natAbs neg (mag / 2 ^ 149)
    omega
  have hlt : rest < 2 ^ 149 := Nat.mod_lt mag (by decide)
  obtain ⟨m, hround, hfrac⟩ := fraction_eq (neg := neg) hrep hsize
  have hk := two_pow_spacing_le (rest * 1000)
  have hbound := rounded_product_lt hlt hk hround (hrep.mod 149)
  obtain ⟨hdivLow, hdivHigh⟩ := rounded_product_div hlt hk hround
  refine ⟨ofInt_integerPart hrep hsize, hx ▸ sub_integerPart hrep hsize, _, _, m,
    floatParts_fin hx hhigh hlow, ?_, hfrac, lt_two_pow_spacing _, hk, hround.above, hround.below,
    hround.even, ?_, ?_⟩
  · rw [hfrac]
    exact Nat.le_of_lt_succ ((Nat.div_lt_iff_lt_mul (by decide)).2 hbound)
  · rw [hfrac]; exact hdivLow
  · rw [hfrac]; exact hdivHigh

theorem decChars_pos {f : Nat} (hf : 0 < f) :
    decChars f = (reverseDigits 10 f).reverse.map dchar := by
  rw [decChars, if_neg (by omega), if_neg (by omega), Int.natAbs_natCast, List.nil_append]

theorem reverseDigits_pos (n : Nat) {m : Nat} (hm : 0 < m) :
    reverseDigits (n + 1) m = m % 10 :: reverseDigits n (m / 10) := by
  rw [reverseDigits, if_neg hm.ne']

theorem reverseDigits_zero (n : Nat) : reverseDigits n 0 = [] := by
  cases n <;> rfl

/-- R213: the fraction's text, padded with zeros to three places, is its three digits. -/
theorem paddedFraction_eq {f : Nat} (hf : f ≤ 999) :
    (if f < 100 then [dchar 0] else []) ++ (if f < 10 then [dchar 0] else []) ++ decChars f =
      [dchar (f / 100), dchar (f / 10 % 10), dchar (f % 10)] := by
  obtain rfl | hpos := Nat.eq_zero_or_pos f
  · rfl
  rw [decChars_pos hpos, reverseDigits_pos 9 hpos]
  by_cases h10 : f < 10
  · have h1 : f / 10 = 0 := by omega
    have h2 : f / 100 = 0 := by omega
    simp [h10, h1, h2, reverseDigits_zero, show f < 100 by omega]
  · rw [reverseDigits_pos 8 (by omega)]
    by_cases h100 : f < 100
    · have h1 : f / 10 / 10 = 0 := by omega
      have h2 : f / 100 = 0 := by omega
      simp [h10, h100, h1, h2, reverseDigits_zero]
    · have h1 : f / 10 / 10 = f / 100 := by omega
      have h2 : f / 100 / 10 = 0 := by omega
      have h3 : f / 100 % 10 = f / 100 := by omega
      rw [reverseDigits_pos 7 (by omega), h1]
      simp [h10, h100, h2, h3, reverseDigits_zero]

/-- WRITE_FLOAT's characters are the integer's text, the point and three digits. -/
theorem floatChars_eq {i : Int} (hi : i.natAbs < 10 ^ 10) {f : Nat} (hf : f ≤ 999) :
    floatChars i f = intText i ++ [0x2E#8, BitVec.ofNat 8 (0x30 + f / 100),
      BitVec.ofNat 8 (0x30 + f / 10 % 10), BitVec.ofNat 8 (0x30 + f % 10)] := by
  rw [← dchar_eq, ← dchar_eq, ← dchar_eq, ← paddedFraction_eq hf, ← decChars_eq hi, floatChars]
  simp only [List.append_assoc, List.cons_append, List.nil_append, pointChar]

/-- Settles O35: the parts of O36, as characters. -/
theorem writeFloatSendsIntegerPointAndThreeDigits :
    Obligations.WriteFloatSendsIntegerPointAndThreeDigits := by
  intro x neg mag s hp _ hx i hhigh hlow
  obtain ⟨_, _, f, _, _, hparts, hf, _⟩ :=
    floatFractionIsExactButForOneRounding x neg mag hx hhigh hlow
  refine ⟨f, hf, hparts, ?_⟩
  have hchars := floatChars_eq (i := i) (by omega) hf
  have hexec : exec (.writeFloat x) s = .next (s.acceptChars 0x0F#8 (floatChars i f) .nothing) := by
    simp only [exec, execWriteFloat, hparts]
    rfl
  rw [hchars] at hexec
  exact sends_chars hp (List.append_ne_nil_of_right_ne_nil _ (List.cons_ne_nil _ _)) hexec

theorem exec_writeFloat_none {x : Word32} {s : State} (hs : s.seq = .idle)
    (h : floatParts x = none) : exec (.writeFloat x) s =
      .next { s with faults := insertMark (.floatOutOfRange x) s.faults } := by
  simp only [exec, execWriteFloat, h]
  exact congrArg Host.Outcome.next (accept_nil_nothing (s.raise (.floatOutOfRange x)) hs)

/-- Settles O37: such an input has no parts. -/
theorem writeFloatOutOfRangeIsMarked : Obligations.WriteFloatOutOfRangeIsMarked := by
  intro x s hs h
  refine exec_writeFloat_none hs ?_
  obtain hx | ⟨neg, hx⟩ | ⟨neg, mag, hx, hrange⟩ := h
  · simp only [floatParts, hx, F32.trunc]
  · simp only [floatParts, hx, F32.trunc]
  · have hin : inS32 (signed neg (mag / 2 ^ 149)) = false := by
      simpa [inS32] using hrange
    have htrunc : (F32.fin neg mag).trunc = some (signed neg (mag / 2 ^ 149)) := rfl
    simp only [floatParts, hx, htrunc, hin, Bool.false_eq_true, if_false]

end Sys2Proof.Proofs
